-- ==== Sys2Proof/Word.lean ====
section
/-! DEFINITION. The words of the DRA block: bytes, 16-bit words, store cells and the value domain of R10. -/

namespace Sys2Proof

/-- A defined byte. -/
abbrev Byte := BitVec 8

/-- A defined 16-bit value: an address, a program counter value, a word operand. -/
abbrev Word := BitVec 16

/-- What one cell of STORE holds: a byte, or `none` for the sentinel `UNDEF` (R10, R45). -/
abbrev Cell := Option Byte

/-- An operand or register value (R10): `UNDEF`, or a bit vector of one of the three widths operand
values have (R159). -/
inductive Val where
  /-- The sentinel `UNDEF`. -/
  | undef
  /-- One bit, the value of a bit operand or of a flag. -/
  | bit (b : Bool)
  /-- Eight bits. -/
  | byte (b : Byte)
  /-- Sixteen bits. -/
  | word (w : Word)
  deriving DecidableEq, Repr

end Sys2Proof
end

