-- ==== Sys2Proof/Config.lean ====
section
/-! DEFINITION. The types of the configuration record CFG (R7, R8): segments, register descriptors, decode ROM
fields, scalar parameters. CFG is fixed at construction and is no part of the state; its reference value REF
stands in `Machine/RefTables.lean` and `Decode.lean`. -/

namespace Sys2Proof

/-- The name of a segment (R21). The four names of REF (R24); every other name the host could give is numbered. -/
inductive SegName where
  | iram | sfr | xram | code
  /-- A name other than REF's four, so that an unregistered name can be asked for (R61). -/
  | other (id : Nat)
  deriving DecidableEq, Repr

/-- The segment tag of an instruction (R65, R95). -/
inductive SegTag where
  | idata | xdata | code
  deriving DecidableEq, Repr

/-- `THRESH_SCOPE` (R66, D6): which accesses the SFR threshold governs. The spec leaves it open. -/
inductive ThreshScope where
  | all | directBitReg
  deriving DecidableEq, Repr

/-- `HOOK_MODE` of one register (R177). -/
inductive HookMode where
  | none | replace | also
  deriving DecidableEq, Repr

/-- `STACK_DIR` (R8). REF: up. -/
inductive StackDir where
  | up | down
  deriving DecidableEq, Repr

/-- The kind of a data access, which the two values of `THRESH_SCOPE` treat differently (R66). -/
inductive AccessKind where
  | direct | bit | regStorage | indirect | indexed | stack
  deriving DecidableEq, Repr

/-- The Segment record of R21. -/
structure Segment where
  name : SegName
  base : Nat
  size : Nat
  backingOffset : Nat
  deriving DecidableEq, Repr

/-- Where a register's value lives (R25). -/
inductive Storage where
  /-- `width_bytes` bytes from this logical address on. -/
  | direct (address : Nat)
  /-- One byte at each address, in the declared order. -/
  | split (addresses : List Nat) (msbFirst : Bool)
  /-- No backing address: the value exists only through hooks. -/
  | computed
  deriving DecidableEq, Repr

/-- A Register Descriptor (R25) with its membership in `BANKED` (R8). `resetValue = none` is `UNDEF`. Its two optional
hooks see the state and stand beside it, by index, in `Block` (Machine/Ops.lean). -/
structure RegDesc where
  name : String
  widthBytes : Nat
  storage : Storage
  banked : Bool
  resetValue : Option Nat
  deriving DecidableEq, Repr

/-- An operand descriptor, the sixteen bits of R97. -/
structure OpDesc where
  tag : BitVec 4
  sel : BitVec 4
  selv : Bool
  size : BitVec 2
  r : Bool
  w : Bool
  zero : BitVec 3
  deriving DecidableEq, Repr

/-- A decode ROM entry, the eighty bits of R94 and R102. -/
structure RomEntry where
  valid : Bool
  kind : Bool
  iid : BitVec 8
  fixedLen : BitVec 2
  cycles : BitVec 4
  cf : BitVec 4
  seg : BitVec 2
  nops : BitVec 2
  op0 : BitVec 16
  op1 : BitVec 16
  op2 : BitVec 16
  mnem : BitVec 8
  deriving DecidableEq, Repr

/-- The configuration record CFG (R7, R8), with the widths of REF: bytes of 8 bits, pointers of 16. -/
structure Cfg where
  /-- The main decode ROM: 256 packed words (R93, R102). -/
  rom : Byte → BitVec 80
  /-- Sub-tables of multi-tier encodings, by number (R115). -/
  subtables : Nat → Option (Byte → BitVec 80)
  /-- `SEGTAG`, the segment tag as a function of the iid (R95). -/
  segTag : BitVec 8 → SegTag
  /-- The register descriptor table, by index (R28). -/
  registers : List RegDesc
  /-- The segment table (R23). -/
  segments : List Segment
  ptrSize : Nat
  /-- `PTR_FORMAT`, the text of an address (R8, R120). -/
  ptrFormat : Word → String
  nopEncoding : List Byte
  breakEncoding : List Byte
  /-- `FIELD_ORDER` is big-endian (R73). -/
  fieldBigEndian : Bool
  statusReg : Nat
  accReg : Nat
  spReg : Nat
  pcReg : Nat
  bankMask : Byte
  cBit : Nat
  acBit : Nat
  ovBit : Nat
  pBit : Nat
  sfrThreshold : Nat
  threshScope : ThreshScope
  bitAreaBase : Nat
  stackDir : StackDir
  /-- `RET_PUSH_ORDER` is low byte first (R214). -/
  retLowFirst : Bool

end Sys2Proof
end

