-- ==== Sys2Proof/Machine/RefTables.lean ====
section
/-! DEFINITION. The reference instance REF, tables without the ROM: segments (R24), registers (R28), `SEGTAG`
(R95) and the register groups of R184. -/

namespace Sys2Proof.Machine

/-- The REF segment table (R24). -/
def refSegments : List Segment :=
  [⟨.iram, 0x00, 0x100, 0x00000⟩, ⟨.sfr, 0x80, 0x80, 0x00000⟩,
   ⟨.xram, 0x0000, 0x10000, 0x00100⟩, ⟨.code, 0x0000, 0x10000, 0x10100⟩]

/-- `STORE_SIZE` of REF (R24, R45). -/
def refStoreSize : Nat := 0x20100

/-- The REF register descriptor table (R28); R0 to R7 are banked and have no defined reset value. -/
def refRegisters : List RegDesc :=
  [⟨"R0", 1, .direct 0x00, true, none⟩, ⟨"R1", 1, .direct 0x01, true, none⟩,
   ⟨"R2", 1, .direct 0x02, true, none⟩, ⟨"R3", 1, .direct 0x03, true, none⟩,
   ⟨"R4", 1, .direct 0x04, true, none⟩, ⟨"R5", 1, .direct 0x05, true, none⟩,
   ⟨"R6", 1, .direct 0x06, true, none⟩, ⟨"R7", 1, .direct 0x07, true, none⟩,
   ⟨"A", 1, .direct 0xE0, false, some 0x00⟩, ⟨"PSW", 1, .direct 0xD0, false, some 0x00⟩,
   ⟨"SP", 1, .direct 0x81, false, some 0x07⟩,
   ⟨"DPTR", 2, .split [0x83, 0x82] true, false, some 0x0000⟩,
   ⟨"PC", 2, .computed, false, some 0x0000⟩]

/-- `SEGTAG` of REF (R95): MOVX (3) is XDATA, MOVC (4) is CODE, every other iid IDATA. -/
def refSegTag (iid : BitVec 8) : SegTag :=
  if iid = 3 then .xdata else if iid = 4 then .code else .idata

/-- The named register groups of R184. -/
inductive RegGroup where
  | general | status | pointer | all
  deriving DecidableEq, Repr

/-- The register indexes of each group (R184). -/
def RegGroup.members : RegGroup → List Nat
  | .general => [0, 1, 2, 3, 4, 5, 6, 7, 8]
  | .status => [9]
  | .pointer => [10, 11, 12]
  | .all => [0, 1, 2, 3, 4, 5, 6, 7, 8, 9, 10, 11, 12]

/-! ## Numbers as text (R8, R120) -/

/-- One upper-case hexadecimal digit. -/
def hexDigit (n : Nat) : Char := (['0', '1', '2', '3', '4', '5', '6', '7', '8', '9', 'A', 'B', 'C', 'D', 'E', 'F'][n]?).getD '?'

/-- `n` hexadecimal digits, most significant first. -/
def hexDigits : Nat → Nat → List Char
  | 0, _ => []
  | n + 1, v => hexDigits n (v / 16) ++ [hexDigit (v % 16)]

/-- `0x` and the digits; with four digits this is the `PTR_FORMAT` of REF (R8). -/
def hex (digits v : Nat) : String := "0x" ++ String.ofList (hexDigits digits v)

end Sys2Proof.Machine
end

