-- ==== Sys2Proof/Syntax.lean ====
section
/-! DEFINITION. The syntax: instruction identifiers (R101), operands (R48), Opcode records (R47), control-flow
edges (R50), decode errors (R137), and the instructions of the REF ROM, one constructor for each form of R110. -/

namespace Sys2Proof

/-- The forty instruction identifiers of REF (R101), in their numbering from 1. -/
inductive Iid where
  | nop | mov | movx | movc | push | pop | xch | add | addc | subb
  | inc | dec | anl | orl | xrl | clrA | cplA | clrC | setbC | cplC
  | clrB | setbB | cplB | movCB | movBC | anlC | orlC | ljmp | sjmp | jmpi
  | lcall | ret | jc | jnc | jz | jnz | jb | jnb | cjne | djnz
  deriving DecidableEq, Repr

/-- The Operand record (R48). Equality is structural (R49). -/
inductive Operand where
  /-- `Reg`: the register with this index. -/
  | reg (idx : Nat)
  /-- `Imm` of size 1. -/
  | imm8 (val : Byte)
  /-- `Imm` of size 2. -/
  | imm16 (val : Word)
  /-- `Dir`: an 8-bit direct address. -/
  | dir (addr : Byte)
  /-- `Ind`: memory at the address held by this register. -/
  | ind (idx : Nat)
  /-- `Bit`: a bit in a byte; `base` is the selector with bits 2:0 zero, `neg` the complement mark. -/
  | bit (base : Byte) (bit : BitVec 3) (neg : Bool)
  /-- `Rel`: a displacement, already sign-extended (R107). -/
  | rel (disp : Int)
  /-- `Abs`: a 16-bit absolute address. -/
  | abs (addr : Word)
  /-- `Idx`: accumulator plus this base register. -/
  | idx (baseIdx : Nat)
  deriving DecidableEq, Repr

/-- The Opcode record, the decoder's output (R47). -/
structure Opcode where
  address : Word
  iid : BitVec 8
  /-- Index into the mnemonic table of R101. -/
  mnem : BitVec 8
  prefixes : Nat
  length : Nat
  operands : List Operand
  /-- Control-flow flags: CALL, BRANCH, COND, NOFALL in bits 0 to 3 (R96). -/
  flags : BitVec 4
  deriving DecidableEq, Repr

/-- The Control-Flow Edge record (R50): kind bits Fallthrough, Conditional, Call, Deref from bit 0.
`target = none` is the target `UNDEF`. -/
structure Edge where
  target : Option Word
  kind : BitVec 4
  deriving DecidableEq, Repr

/-- What a decode can end in other than an Opcode (R137), with `step`'s undefined code byte (R406). -/
inductive DecodeError where
  /-- Fewer bytes than needed: how many were needed and at which offset from the instruction's start (R402). -/
  | truncated (need : Nat) (at_ : Nat)
  /-- The byte with no ROM entry (R401). -/
  | invalid (b : Byte)
  /-- The entry of this byte is malformed, in the main table (`none`) or in this sub-table (R111, R408). -/
  | malformed (table : Option Nat) (b : Byte)
  /-- The code byte at this offset from the instruction's start is `UNDEF` (R406; `step` only). -/
  | undefinedByte (at_ : Nat)
  deriving DecidableEq, Repr

/-- The instructions of the REF ROM: one constructor for each form of R110. The rows of opcode_table.json that differ
only in the fixed register selector of the opcode byte are the values of the argument `n` (Rn) or `i` (@Ri). Other
arguments: `imm` immediate, `a` direct address, `b` bit address byte, `d` sign-extended displacement, `t` absolute target. -/
inductive Instr where
  -- Data transfer (43_data_transfer.md)
  /-- `mov A, #imm8` (R221). -/
  | movAImm (imm : Byte)
  /-- `mov A, direct` (R222). -/
  | movADir (a : Byte)
  /-- `mov A, @Ri` (R223). -/
  | movAInd (i : Fin 2)
  /-- `mov A, Rn` (R224). -/
  | movARn (n : Fin 8)
  /-- `mov Rn, A` (R225). -/
  | movRnA (n : Fin 8)
  /-- `mov Rn, #imm8` (R226). -/
  | movRnImm (n : Fin 8) (imm : Byte)
  /-- `mov Rn, direct` (R227). -/
  | movRnDir (n : Fin 8) (a : Byte)
  /-- `mov direct, A` (R228). -/
  | movDirA (a : Byte)
  /-- `mov direct, #imm8` (R229). -/
  | movDirImm (a : Byte) (imm : Byte)
  /-- `mov direct, Rn` (R230). -/
  | movDirRn (a : Byte) (n : Fin 8)
  /-- `mov direct, @Ri` (R231). -/
  | movDirInd (a : Byte) (i : Fin 2)
  /-- `mov @Ri, A` (R232). -/
  | movIndA (i : Fin 2)
  /-- `mov @Ri, #imm8` (R233). -/
  | movIndImm (i : Fin 2) (imm : Byte)
  /-- `mov @Ri, direct` (R234). -/
  | movIndDir (i : Fin 2) (a : Byte)
  /-- `mov DPTR, #imm16` (R235). -/
  | movDptrImm (imm : Word)
  /-- `movx A, @DPTR` (R237). -/
  | movxADptr
  /-- `movx A, @Ri` (R238). -/
  | movxAInd (i : Fin 2)
  /-- `movx @DPTR, A` (R239). -/
  | movxDptrA
  /-- `movx @Ri, A` (R240). -/
  | movxIndA (i : Fin 2)
  /-- `movc A, @A+DPTR` (R242). -/
  | movcADptr
  /-- `movc A, @A+PC` (R243). -/
  | movcAPc
  /-- `push direct` (R245). -/
  | push (a : Byte)
  /-- `pop direct` (R247). -/
  | pop (a : Byte)
  /-- `xch A, direct` (R249). -/
  | xchADir (a : Byte)
  /-- `xch A, @Ri` (R250). -/
  | xchAInd (i : Fin 2)
  /-- `xch A, Rn` (R251). -/
  | xchARn (n : Fin 8)
  -- Arithmetic and logic (44_arith_logic.md)
  /-- `add A, #imm8` (R261). -/
  | addAImm (imm : Byte)
  /-- `add A, direct` (R262). -/
  | addADir (a : Byte)
  /-- `add A, @Ri` (R263). -/
  | addAInd (i : Fin 2)
  /-- `add A, Rn` (R264). -/
  | addARn (n : Fin 8)
  /-- `addc A, #imm8` (R266). -/
  | addcAImm (imm : Byte)
  /-- `addc A, direct` (R267). -/
  | addcADir (a : Byte)
  /-- `addc A, @Ri` (R268). -/
  | addcAInd (i : Fin 2)
  /-- `addc A, Rn` (R269). -/
  | addcARn (n : Fin 8)
  /-- `subb A, #imm8` (R271). -/
  | subbAImm (imm : Byte)
  /-- `subb A, direct` (R272). -/
  | subbADir (a : Byte)
  /-- `subb A, @Ri` (R273). -/
  | subbAInd (i : Fin 2)
  /-- `subb A, Rn` (R274). -/
  | subbARn (n : Fin 8)
  /-- `inc A` (R276). -/
  | incA
  /-- `inc direct` (R277). -/
  | incDir (a : Byte)
  /-- `inc @Ri` (R278). -/
  | incInd (i : Fin 2)
  /-- `inc Rn` (R279). -/
  | incRn (n : Fin 8)
  /-- `inc DPTR` (R280). -/
  | incDptr
  /-- `dec A` (R282). -/
  | decA
  /-- `dec direct` (R283). -/
  | decDir (a : Byte)
  /-- `dec @Ri` (R284). -/
  | decInd (i : Fin 2)
  /-- `dec Rn` (R285). -/
  | decRn (n : Fin 8)
  /-- `anl A, #imm8` (R287). -/
  | anlAImm (imm : Byte)
  /-- `anl A, direct` (R288). -/
  | anlADir (a : Byte)
  /-- `anl A, @Ri` (R289). -/
  | anlAInd (i : Fin 2)
  /-- `anl A, Rn` (R290). -/
  | anlARn (n : Fin 8)
  /-- `anl direct, A` (R291). -/
  | anlDirA (a : Byte)
  /-- `anl direct, #imm8` (R292). -/
  | anlDirImm (a : Byte) (imm : Byte)
  /-- `orl A, #imm8` (R294). -/
  | orlAImm (imm : Byte)
  /-- `orl A, direct` (R295). -/
  | orlADir (a : Byte)
  /-- `orl A, @Ri` (R296). -/
  | orlAInd (i : Fin 2)
  /-- `orl A, Rn` (R297). -/
  | orlARn (n : Fin 8)
  /-- `orl direct, A` (R298). -/
  | orlDirA (a : Byte)
  /-- `orl direct, #imm8` (R299). -/
  | orlDirImm (a : Byte) (imm : Byte)
  /-- `xrl A, #imm8` (R301). -/
  | xrlAImm (imm : Byte)
  /-- `xrl A, direct` (R302). -/
  | xrlADir (a : Byte)
  /-- `xrl A, @Ri` (R303). -/
  | xrlAInd (i : Fin 2)
  /-- `xrl A, Rn` (R304). -/
  | xrlARn (n : Fin 8)
  /-- `xrl direct, A` (R305). -/
  | xrlDirA (a : Byte)
  /-- `xrl direct, #imm8` (R306). -/
  | xrlDirImm (a : Byte) (imm : Byte)
  /-- `clr A` (R308). -/
  | clrA
  /-- `cpl A` (R310). -/
  | cplA
  -- Bit and carry (45_bit.md)
  /-- `clr C` (R321). -/
  | clrC
  /-- `setb C` (R323). -/
  | setbC
  /-- `cpl C` (R325). -/
  | cplC
  /-- `clr bit` (R327). -/
  | clrBit (b : Byte)
  /-- `setb bit` (R329). -/
  | setbBit (b : Byte)
  /-- `cpl bit` (R331). -/
  | cplBit (b : Byte)
  /-- `mov C, bit` (R333). -/
  | movCBit (b : Byte)
  /-- `mov bit, C` (R335). -/
  | movBitC (b : Byte)
  /-- `anl C, bit` (R337). -/
  | anlCBit (b : Byte)
  /-- `anl C, /bit` (R338). -/
  | anlCNbit (b : Byte)
  /-- `orl C, bit` (R340). -/
  | orlCBit (b : Byte)
  /-- `orl C, /bit` (R341). -/
  | orlCNbit (b : Byte)
  -- Control transfer (46_control.md)
  /-- `nop` (R351). -/
  | nop
  /-- `ljmp addr16` (R353). -/
  | ljmp (t : Word)
  /-- `sjmp rel` (R355). -/
  | sjmp (d : Int)
  /-- `jmp @A+DPTR` (R357). -/
  | jmpADptr
  /-- `lcall addr16` (R359). -/
  | lcall (t : Word)
  /-- `ret` (R361). -/
  | ret
  /-- `jc rel` (R363). -/
  | jc (d : Int)
  /-- `jnc rel` (R365). -/
  | jnc (d : Int)
  /-- `jz rel` (R367). -/
  | jz (d : Int)
  /-- `jnz rel` (R369). -/
  | jnz (d : Int)
  /-- `jb bit, rel` (R371). -/
  | jb (b : Byte) (d : Int)
  /-- `jnb bit, rel` (R373). -/
  | jnb (b : Byte) (d : Int)
  /-- `cjne A, #imm8, rel` (R375). -/
  | cjneAImm (imm : Byte) (d : Int)
  /-- `cjne A, direct, rel` (R376). -/
  | cjneADir (a : Byte) (d : Int)
  /-- `cjne @Ri, #imm8, rel` (R377). -/
  | cjneIndImm (i : Fin 2) (imm : Byte) (d : Int)
  /-- `cjne Rn, #imm8, rel` (R378). -/
  | cjneRnImm (n : Fin 8) (imm : Byte) (d : Int)
  /-- `djnz direct, rel` (R380). -/
  | djnzDir (a : Byte) (d : Int)
  /-- `djnz Rn, rel` (R381). -/
  | djnzRn (n : Fin 8) (d : Int)
  deriving DecidableEq, Repr

end Sys2Proof
end

