-- ==== Sys2Proof/WellFormed.lean ====
section
/-! DEFINITION. Well-formedness of the plain data: operands (R48), register descriptors (R26), segments and
instructions. The ROM's own conditions (R111) stand with the decoder in `Decode.lean`, which raises on them. -/

namespace Sys2Proof

/-- A displacement is a sign-extended byte (R107). -/
abbrev DispOk (d : Int) : Prop := -128 ≤ d ∧ d ≤ 127

/-- The field ranges R48 gives the operand variants: a bit selector has bits 2:0 zero, a displacement is a
sign-extended byte. -/
def Operand.WellFormed : Operand → Bool
  | .bit base _ _ => base &&& 0x07 == 0
  | .rel d => decide (DispOk d)
  | .reg _ | .imm8 _ | .imm16 _ | .dir _ | .ind _ | .abs _ | .idx _ => true

/-- R26: `width_bytes` is the number of bytes the storage implies, unless the register is computed; and, the model's
width limit (log entry 4), a register has one or two bytes. `BANKED` is no part of it: banking applies to `Direct`
storage and is not looked at for the others (R170, R171). -/
def RegDesc.WellFormed (d : RegDesc) : Bool :=
  (d.widthBytes == 1 || d.widthBytes == 2) &&
  match d.storage with
  | .direct _ | .computed => true
  | .split as _ => as.length == d.widthBytes

/-- The name at which a segment table is ill formed: the SFR segment if it is not registered (R61), else a name
registered twice, for which `resolve` would have two answers (log entry 10). -/
def segmentDefect (segs : List Segment) : Option SegName :=
  let names := segs.map Segment.name
  if names.contains .sfr then names.find? fun n => 1 < names.count n else some .sfr

/-- A segment table with no defect. -/
def segmentsWellFormed (segs : List Segment) : Bool := (segmentDefect segs).isNone

/-- A well-formed instruction: every operand field is one the encoding admits (R114: only displacements have a
range, every other field takes every value of its type). -/
def Instr.WellFormed : Instr → Bool
  | .jb _ d | .jnb _ d | .jc d | .jnc d | .jz d | .jnz d | .sjmp d
  | .cjneAImm _ d | .cjneADir _ d | .cjneIndImm _ _ d | .cjneRnImm _ _ d
  | .djnzDir _ d | .djnzRn _ d => decide (DispOk d)
  | .movAImm _ | .movADir _ | .movAInd _ | .movARn _ | .movRnA _ | .movRnImm _ _ | .movRnDir _ _ | .movDirA _
  | .movDirImm _ _ | .movDirRn _ _ | .movDirInd _ _ | .movIndA _ | .movIndImm _ _ | .movIndDir _ _
  | .movDptrImm _ | .movxADptr | .movxAInd _ | .movxDptrA | .movxIndA _ | .movcADptr | .movcAPc | .push _
  | .pop _ | .xchADir _ | .xchAInd _ | .xchARn _ | .addAImm _ | .addADir _ | .addAInd _ | .addARn _
  | .addcAImm _ | .addcADir _ | .addcAInd _ | .addcARn _ | .subbAImm _ | .subbADir _ | .subbAInd _ | .subbARn _
  | .incA | .incDir _ | .incInd _ | .incRn _ | .incDptr | .decA | .decDir _ | .decInd _ | .decRn _ | .anlAImm _
  | .anlADir _ | .anlAInd _ | .anlARn _ | .anlDirA _ | .anlDirImm _ _ | .orlAImm _ | .orlADir _ | .orlAInd _
  | .orlARn _ | .orlDirA _ | .orlDirImm _ _ | .xrlAImm _ | .xrlADir _ | .xrlAInd _ | .xrlARn _ | .xrlDirA _
  | .xrlDirImm _ _ | .clrA | .cplA | .clrC | .setbC | .cplC | .clrBit _ | .setbBit _ | .cplBit _ | .movCBit _
  | .movBitC _ | .anlCBit _ | .anlCNbit _ | .orlCBit _ | .orlCNbit _ | .nop | .ljmp _ | .jmpADptr | .lcall _
  | .ret => true

end Sys2Proof
end

