-- ==== Sys2Proof/Decode.lean ====
section
/-! DEFINITION. The decoder (R130 to R139) over the decode ROM (R93 to R102), the REF ROM itself (R109, R110), the
instructions of the REF ROM as Opcode records, and the encoder (R122). -/

namespace Sys2Proof

/-! ## Instruction identifiers -/

/-- The number of an iid (R101). -/
def Iid.num : Iid → BitVec 8
  | .nop => 1 | .mov => 2 | .movx => 3 | .movc => 4 | .push => 5
  | .pop => 6 | .xch => 7 | .add => 8 | .addc => 9 | .subb => 10
  | .inc => 11 | .dec => 12 | .anl => 13 | .orl => 14 | .xrl => 15
  | .clrA => 16 | .cplA => 17 | .clrC => 18 | .setbC => 19 | .cplC => 20
  | .clrB => 21 | .setbB => 22 | .cplB => 23 | .movCB => 24 | .movBC => 25
  | .anlC => 26 | .orlC => 27 | .ljmp => 28 | .sjmp => 29 | .jmpi => 30
  | .lcall => 31 | .ret => 32 | .jc => 33 | .jnc => 34 | .jz => 35
  | .jnz => 36 | .jb => 37 | .jnb => 38 | .cjne => 39 | .djnz => 40

/-- The iid with this number; `none` for 0 and 41 to 255 (R101). -/
def Iid.ofNum (x : BitVec 8) : Option Iid :=
  match x.toNat with
  | 1 => some .nop | 2 => some .mov | 3 => some .movx | 4 => some .movc | 5 => some .push
  | 6 => some .pop | 7 => some .xch | 8 => some .add | 9 => some .addc | 10 => some .subb
  | 11 => some .inc | 12 => some .dec | 13 => some .anl | 14 => some .orl | 15 => some .xrl
  | 16 => some .clrA | 17 => some .cplA | 18 => some .clrC | 19 => some .setbC | 20 => some .cplC
  | 21 => some .clrB | 22 => some .setbB | 23 => some .cplB | 24 => some .movCB | 25 => some .movBC
  | 26 => some .anlC | 27 => some .orlC | 28 => some .ljmp | 29 => some .sjmp | 30 => some .jmpi
  | 31 => some .lcall | 32 => some .ret | 33 => some .jc | 34 => some .jnc | 35 => some .jz
  | 36 => some .jnz | 37 => some .jb | 38 => some .jnb | 39 => some .cjne | 40 => some .djnz
  | _ => none

/-- The index of an iid's mnemonic in the mnemonic table (R101). -/
def Iid.mnem : Iid → BitVec 8
  | .nop => 0 | .mov => 1 | .movx => 2 | .movc => 3 | .push => 4
  | .pop => 5 | .xch => 6 | .add => 7 | .addc => 8 | .subb => 9
  | .inc => 10 | .dec => 11 | .anl => 12 | .orl => 13 | .xrl => 14
  | .clrA => 15 | .cplA => 16 | .clrC => 15 | .setbC => 17 | .cplC => 16
  | .clrB => 15 | .setbB => 17 | .cplB => 16 | .movCB => 1 | .movBC => 1
  | .anlC => 12 | .orlC => 13 | .ljmp => 18 | .sjmp => 19 | .jmpi => 20
  | .lcall => 21 | .ret => 22 | .jc => 23 | .jnc => 24 | .jz => 25
  | .jnz => 26 | .jb => 27 | .jnb => 28 | .cjne => 29 | .djnz => 30

/-- The control-flow flags of an iid (R96). -/
def Iid.cf : Iid → BitVec 4
  | .ljmp | .sjmp | .jmpi => 0xA
  | .lcall => 0x1
  | .ret => 0x8
  | .jc | .jnc | .jz | .jnz | .jb | .jnb | .cjne | .djnz => 0x6
  | .nop | .mov | .movx | .movc | .push | .pop | .xch | .add | .addc | .subb | .inc | .dec | .anl | .orl | .xrl
  | .clrA | .cplA | .clrC | .setbC | .cplC | .clrB | .setbB | .cplB | .movCB | .movBC | .anlC | .orlC => 0x0

/-- How the handler of an iid uses each operand (R100, R211, the handler rules): whether it reads it, whether it writes
it. A branch target is read. -/
def Iid.uses : Iid → List (Bool × Bool)
  | .nop | .clrC | .setbC | .cplC | .ret => []
  | .mov | .movx | .movc => [(false, true), (true, false)]
  | .push | .movCB | .anlC | .orlC | .ljmp | .sjmp | .jmpi | .lcall | .jc | .jnc | .jz | .jnz => [(true, false)]
  | .pop | .clrA | .clrB | .setbB | .movBC => [(false, true)]
  | .inc | .dec | .cplA | .cplB => [(true, true)]
  | .xch => [(true, true), (true, true)]
  | .add | .addc | .subb | .anl | .orl | .xrl | .djnz => [(true, true), (true, false)]
  | .jb | .jnb => [(true, false), (true, false)]
  | .cjne => [(true, false), (true, false), (true, false)]

/-! ## ROM words -/

/-- The fields of a packed ROM word (R102). -/
def RomEntry.ofWord (w : BitVec 80) : RomEntry where
  valid := w.getLsbD 0
  kind := w.getLsbD 1
  iid := w.extractLsb' 2 8
  fixedLen := w.extractLsb' 10 2
  cycles := w.extractLsb' 12 4
  cf := w.extractLsb' 16 4
  seg := w.extractLsb' 20 2
  nops := w.extractLsb' 22 2
  op0 := w.extractLsb' 24 16
  op1 := w.extractLsb' 40 16
  op2 := w.extractLsb' 56 16
  mnem := w.extractLsb' 72 8

/-- The fields of an operand descriptor (R97). -/
def OpDesc.ofBits (x : BitVec 16) : OpDesc where
  tag := x.extractLsb' 0 4
  sel := x.extractLsb' 4 4
  selv := x.getLsbD 8
  size := x.extractLsb' 9 2
  r := x.getLsbD 11
  w := x.getLsbD 12
  zero := x.extractLsb' 13 3

/-- The descriptors of an entry's `nops` operands, in encoding order (R134). -/
def RomEntry.descs (e : RomEntry) : List OpDesc :=
  ([e.op0, e.op1, e.op2].take e.nops.toNat).map OpDesc.ofBits

/-- The bytes a descriptor consumes (R99); `none` for a pairing of tag and size that R99 does not list. -/
def OpDesc.bytes (d : OpDesc) : Option Nat :=
  match d.tag.toNat, d.size.toNat with
  | 1, 1 | 1, 2 | 4, 1 | 9, 1 => some 0
  | 2, 1 | 3, 1 | 5, 1 | 6, 1 | 8, 1 => some 1
  | 2, 2 | 7, 2 => some 2
  | _, _ => none

/-- The segment a tag names (R65). -/
def SegTag.segName : SegTag → SegName
  | .idata => .iram
  | .xdata => .xram
  | .code => .code

/-- The value of the `seg` field (R95); 3 is reserved. -/
def segTagOfField (seg : BitVec 2) : Option SegTag :=
  match seg.toNat with
  | 0 => some .idata
  | 1 => some .xdata
  | 2 => some .code
  | _ => none

/-- R98 and R99 for one descriptor: REG, IND and AIDX carry a selector that names a register, and a REG
descriptor has that register's width; the other tags carry none. -/
def OpDesc.selectorOk (c : Cfg) (d : OpDesc) : Bool :=
  match d.tag.toNat with
  | 1 => d.selv && (match c.registers[d.sel.toNat]? with
      | some r => r.widthBytes == d.size.toNat
      | none => false)
  | 4 | 9 => d.selv && (c.registers[d.sel.toNat]?).isSome
  | _ => !d.selv && d.sel == 0

/-- The conditions of R111 on one operand descriptor in use; REG, DIR, IND and BIT are the writable variants (R146). -/
def OpDesc.ok (c : Cfg) (d : OpDesc) : Bool :=
  d.bytes.isSome && d.selectorOk c && d.zero == 0 &&
  (!d.w || (match d.tag.toNat with | 1 | 3 | 4 | 5 => true | _ => false))

/-- The direction tags allow a use of an operand (R100). -/
def OpDesc.allows (d : OpDesc) (use : Bool × Bool) : Bool := (!use.1 || d.r) && (!use.2 || d.w)

/-- R100: the handler of the entry's iid, if it has one, reads only operands tagged `R` and writes only operands tagged
`W`. An operand the handler uses and the entry lacks has neither tag (log entry 13). -/
def RomEntry.directionsOk (e : RomEntry) : Bool :=
  match Iid.ofNum e.iid with
  | some h => h.uses.length ≤ e.descs.length && (e.descs.zip h.uses).all fun x => x.1.allows x.2
  | none => true

/-- The conditions of R111, with R94 (unused slots hold 0) and R100, on an instruction entry reached after `consumed`
opcode bytes (R115). -/
def RomEntry.ok (c : Cfg) (consumed : Nat) (e : RomEntry) : Bool :=
  e.descs.all (OpDesc.ok c) &&
  ([e.op0, e.op1, e.op2].drop e.nops.toNat).all (· == 0) &&
  e.directionsOk &&
  e.fixedLen.toNat == consumed && consumed != 0 &&
  (match segTagOfField e.seg with
    | some t => t == c.segTag e.iid && c.segments.any (fun s => s.name == t.segName)
    | none => false)

/-! ## The decoder -/

/-- What the decoder reads from: `size` bytes, some of which may be `UNDEF` when they are code cells. -/
structure Buffer where
  size : Nat
  cell : Nat → Cell

/-- The buffer of a finite sequence of defined bytes (R130). -/
def Buffer.ofList (bytes : List Byte) : Buffer := ⟨bytes.length, fun j => bytes[j]?⟩

/-- Step 1 of the decoder (R131, R132): look the byte at `off + k` up, following sub-table pointers (R115). The
result is the entry, the number of opcode bytes consumed, and the table and byte at which the entry stands (`none` is
the main table). A pointer reads the next byte before it indexes the table it names, so that an absent or undefined
next byte is met before a missing table (log entry 19). `fuel` counts the bytes left. -/
def walkTables (c : Cfg) (buf : Buffer) (off : Nat) :
    Nat → Option Nat → (Byte → BitVec 80) → Nat → Except DecodeError (RomEntry × Nat × Option Nat × Byte)
  | 0, _, _, k => .error (.truncated 1 k)
  | fuel + 1, id, table, k =>
    if buf.size ≤ off + k then .error (.truncated 1 k)
    else match buf.cell (off + k) with
      | none => .error (.undefinedByte k)
      | some b =>
        let e := RomEntry.ofWord (table b)
        if e.valid then
          if e.kind then
            match c.subtables e.iid.toNat with
            | some t => walkTables c buf off fuel (some e.iid.toNat) t (k + 1)
            | none =>
              if buf.size ≤ off + (k + 1) then .error (.truncated 1 (k + 1))
              else match buf.cell (off + (k + 1)) with
                | none => .error (.undefinedByte (k + 1))
                | some _ => .error (.malformed id b)
          else .ok (e, k + 1, id, b)
        else .error (.invalid b)

/-- `k` bytes from offset `off + cur` on; the bound has been checked (R136). -/
def readBytes (buf : Buffer) (off : Nat) : Nat → Nat → Except DecodeError (List Byte)
  | _, 0 => .ok []
  | cur, k + 1 =>
    match buf.cell (off + cur) with
    | none => .error (.undefinedByte cur)
    | some b =>
      match readBytes buf off (cur + 1) k with
      | .ok bs => .ok (b :: bs)
      | .error e => .error e

/-- A 16-bit field from its two bytes in stream order (R73, R103, R106). -/
def Cfg.fieldWord (c : Cfg) (first second : Byte) : Word :=
  if c.fieldBigEndian then first ++ second else second ++ first

/-- The bit operand a bit-address byte stands for (R105). -/
def Operand.ofBitaddr (b : Byte) (neg : Bool) : Operand := .bit (b &&& 0xF8) (b.extractLsb' 0 3) neg

/-- Tag to variant (R135). -/
def OpDesc.build (c : Cfg) (d : OpDesc) (bs : List Byte) : Option Operand :=
  match d.tag.toNat, bs with
  | 1, [] => some (.reg d.sel.toNat)
  | 2, [x] => some (.imm8 x)
  | 2, [x, y] => some (.imm16 (c.fieldWord x y))
  | 3, [x] => some (.dir x)
  | 4, [] => some (.ind d.sel.toNat)
  | 5, [x] => some (Operand.ofBitaddr x false)
  | 6, [x] => some (Operand.ofBitaddr x true)
  | 7, [x, y] => some (.abs (c.fieldWord x y))
  | 8, [x] => some (.rel x.toInt)
  | 9, [] => some (.idx d.sel.toNat)
  | _, _ => none

/-- Step 3 (R134): the operands in encoding order and the final cursor. `bad` is the error of a malformed entry. -/
def decodeOperands (c : Cfg) (buf : Buffer) (off : Nat) (bad : DecodeError) :
    List OpDesc → Nat → Except DecodeError (List Operand × Nat)
  | [], cur => .ok ([], cur)
  | d :: ds, cur =>
    match d.bytes with
    | none => .error bad
    | some k =>
      if buf.size < off + cur + k then .error (.truncated k cur)
      else match readBytes buf off cur k with
        | .error e => .error e
        | .ok bs =>
          match d.build c bs with
          | none => .error bad
          | some op =>
            match decodeOperands c buf off bad ds (cur + k) with
            | .error e => .error e
            | .ok (ops, cur') => .ok (op :: ops, cur')

/-- The decoder over any buffer (R131 to R138), with its errors in the order of R137 and R414. -/
def decodeAt (c : Cfg) (buf : Buffer) (off : Nat) (va : Word) : Except DecodeError Opcode :=
  match walkTables c buf off (buf.size - off + 1) none c.rom 0 with
  | .error e => .error e
  | .ok (e, k, id, b) =>
    if e.ok c k then
      match decodeOperands c buf off (.malformed id b) e.descs k with
      | .error er => .error er
      | .ok (ops, len) =>
        .ok { address := va, iid := e.iid, mnem := e.mnem, prefixes := 0, length := len, operands := ops, flags := e.cf }
    else .error (.malformed id b)

/-- The `decode` transaction (R130): the address is truncated to 16 bits. -/
def decode (c : Cfg) (bytes : List Byte) (offset va : Nat) : Except DecodeError Opcode :=
  decodeAt c (Buffer.ofList bytes) offset (BitVec.ofNat 16 va)

/-! ## The REF ROM -/

/-- The REF decode ROM (R109, R110), sixteen rows of sixteen packed words (R102); a zero word is an empty entry. -/
def refRomRows : List (List (BitVec 80)) :=
  [[
    0x1405, 0, 0x12000000000C074A2471, 0,
    0xA000000001B8140142D, 0xA000000001A0340142D, 0xA000000001B0440142D, 0xA000000001B1440142D,
    0xA000000001B0140142D, 0xA000000001B1140142D, 0xA000000001B2140142D, 0xA000000001B3140142D,
    0xA000000001B4140142D, 0xA000000001B5140142D, 0xA000000001B6140142D, 0xA000000001B7140142D]] ++
  [[
    0, 0, 0x15000000000C0741247D, 0,
    0xB000000001B81401431, 0xB000000001A03401431, 0xB000000001B04401431, 0xB000000001B14401431,
    0xB000000001B01401431, 0xB000000001B11401431, 0xB000000001B21401431, 0xB000000001B31401431,
    0xB000000001B41401431, 0xB000000001B51401431, 0xB000000001B61401431, 0xB000000001B71401431]] ++
  [[
    0x1B00000A080A05862495, 0, 0x16000000000000082481, 0,
    0x700000A021B81801421, 0x700000A031B81801421, 0x700000B041B81801421, 0x700000B141B81801421,
    0x700000B011B81801421, 0x700000B111B81801421, 0x700000B211B81801421, 0x700000B311B81801421,
    0x700000B411B81801421, 0x700000B511B81801421, 0x700000B611B81801421, 0x700000B711B81801421]] ++
  [[
    0x1C00000A080A05862499, 0, 0, 0,
    0x800000A021B81801425, 0x800000A031B81801425, 0x800000B041B81801425, 0x800000B141B81801425,
    0x800000B011B81801425, 0x800000B111B81801425, 0x800000B211B81801425, 0x800000B311B81801425,
    0x800000B411B81801425, 0x800000B511B81801425, 0x800000B611B81801425, 0x800000B711B81801425]] ++
  [[
    0x17000000000A08462485, 0, 0xD00000B811A03801439, 0xD00000A021A03802439,
    0xD00000A021B81801439, 0xD00000A031B81801439, 0xD00000B041B81801439, 0xD00000B141B81801439,
    0xD00000B011B81801439, 0xD00000B111B81801439, 0xD00000B211B81801439, 0xD00000B311B81801439,
    0xD00000B411B81801439, 0xD00000B511B81801439, 0xD00000B611B81801439, 0xD00000B711B81801439]] ++
  [[
    0x18000000000A08462489, 0, 0xC00000B811A03801435, 0xC00000A021A03802435,
    0xC00000A021B81801435, 0xC00000A031B81801435, 0xC00000B041B81801435, 0xC00000B141B81801435,
    0xC00000B011B81801435, 0xC00000B111B81801435, 0xC00000B211B81801435, 0xC00000B311B81801435,
    0xC00000B411B81801435, 0xC00000B511B81801435, 0xC00000B611B81801435, 0xC00000B711B81801435]] ++
  [[
    0x19000000000A0846248D, 0, 0xE00000B811A0380143D, 0xE00000A021A0380243D,
    0xE00000A021B8180143D, 0xE00000A031B8180143D, 0xE00000B041B8180143D, 0xE00000B141B8180143D,
    0xE00000B011B8180143D, 0xE00000B111B8180143D, 0xE00000B211B8180143D, 0xE00000B311B8180143D,
    0xE00000B411B8180143D, 0xE00000B511B8180143D, 0xE00000B611B8180143D, 0xE00000B711B8180143D]] ++
  [[
    0x1A000000000A08462491, 0, 0xD000000000A0540246D, 0x14000000000BB94A2479,
    0x100000A021381801409, 0x100000A021203802409, 0x100000A021304801409, 0x100000A021314801409,
    0x100000A021301801409, 0x100000A021311801409, 0x100000A021321801409, 0x100000A021331801409,
    0x100000A021341801409, 0x100000A021351801409, 0x100000A021361801409, 0x100000A021371801409]] ++
  [[
    0x13000000000A084A2475, 0, 0xC000000000A05402469, 0x300000BC91381A02411,
    0, 0, 0x100000B041203802409, 0x100000B141203802409,
    0x100000B011203802409, 0x100000B111203802409, 0x100000B211203802409, 0x100000B311203802409,
    0x100000B411203802409, 0x100000B511203802409, 0x100000B611203802409, 0x100000B711203802409]] ++
  [[
    0x100000C0215B1802409, 0, 0x1000000001205402465, 0x300000BB91381A02411,
    0x900000A021B81801429, 0x900000A031B81801429, 0x900000B041B81801429, 0x900000B141B81801429,
    0x900000B011B81801429, 0x900000B111B81801429, 0x900000B211B81801429, 0x900000B311B81801429,
    0x900000B411B81801429, 0x900000B511B81801429, 0x900000B611B81801429, 0x900000B711B81801429]] ++
  [[
    0xD000000000A0640246D, 0, 0x1000000000A05401461, 0xA000000001DB140242D,
    0, 0, 0x100000A031304802409, 0x100000A031314802409,
    0x100000A031301802409, 0x100000A031311802409, 0x100000A031321802409, 0x100000A031331802409,
    0x100000A031341802409, 0x100000A031351802409, 0x100000A031361802409, 0x100000A031371802409]] ++
  [[
    0xC000000000A06402469, 0, 0x10000000001A0540145D, 0x10000000000000001451,
    0x1D0A080A020B81C6249D, 0x1D0A080A030B81C6249D, 0x1D0A080A020B04C6249D, 0x1D0A080A020B14C6249D,
    0x1D0A080A020B01C6249D, 0x1D0A080A020B11C6249D, 0x1D0A080A020B21C6249D, 0x1D0A080A020B31C6249D,
    0x1D0A080A020B41C6249D, 0x1D0A080A020B51C6249D, 0x1D0A080A020B61C6249D, 0x1D0A080A020B71C6249D]] ++
  [[
    0x4000000000A03402415, 0, 0xF000000001205401455, 0xF000000000000001449,
    0, 0x600001A031B8180141D, 0x600001B041B8180141D, 0x600001B141B8180141D,
    0x600001B011B8180141D, 0x600001B111B8180141D, 0x600001B211B8180141D, 0x600001B311B8180141D,
    0x600001B411B8180141D, 0x600001B511B8180141D, 0x600001B611B8180141D, 0x600001B711B8180141D]] ++
  [[
    0x5000000001203402419, 0, 0x11000000001205401459, 0x1100000000000000144D,
    0, 0x1E00000A081A038624A1, 0, 0,
    0x1E00000A081B018624A1, 0x1E00000A081B118624A1, 0x1E00000A081B218624A1, 0x1E00000A081B318624A1,
    0x1E00000A081B418624A1, 0x1E00000A081B518624A1, 0x1E00000A081B618624A1, 0x1E00000A081B718624A1]] ++
  [[
    0x200000BB4138190240D, 0, 0x200000B04138190240D, 0x200000B14138190240D,
    0xF000000001381401441, 0x100000A031381801409, 0x100000B041381801409, 0x100000B141381801409,
    0x100000B011381801409, 0x100000B111381801409, 0x100000B211381801409, 0x100000B311381801409,
    0x100000B411381801409, 0x100000B511381801409, 0x100000B611381801409, 0x100000B711381801409]] ++
  [[
    0x200000B8113B490240D, 0, 0x200000B81130490240D, 0x200000B81131490240D,
    0x10000000001B81401445, 0x100000B811203801409, 0x100000B811304801409, 0x100000B811314801409,
    0x100000B811301801409, 0x100000B811311801409, 0x100000B811321801409, 0x100000B811331801409,
    0x100000B811341801409, 0x100000B811351801409, 0x100000B811361801409, 0x100000B811371801409]]

/-- The REF main table (R93). -/
def refRom (b : Byte) : BitVec 80 :=
  match refRomRows[b.toNat / 16]? with
  | some row => (row[b.toNat % 16]?).getD 0
  | none => 0

/-- CFG = REF (R8). -/
def refCfg : Cfg where
  rom := refRom
  subtables := fun _ => none
  segTag := Machine.refSegTag
  registers := Machine.refRegisters
  segments := Machine.refSegments
  ptrSize := 2
  ptrFormat := fun a => Machine.hex 4 a.toNat
  nopEncoding := [0x00]
  breakEncoding := [0xA5]
  fieldBigEndian := true
  statusReg := 9
  accReg := 8
  spReg := 10
  pcReg := 12
  bankMask := 0x18
  cBit := 7
  acBit := 6
  ovBit := 2
  pBit := 0
  sfrThreshold := 0x80
  threshScope := .all
  bitAreaBase := 0x20
  stackDir := .up
  retLowFirst := true

/-! ## Instructions as Opcode records -/

/-- The instruction identifier of a form (R110). -/
def Instr.iid : Instr → Iid
  | .movAImm _ | .movADir _ | .movAInd _ | .movARn _ | .movRnA _ | .movRnImm _ _ | .movRnDir _ _
  | .movDirA _ | .movDirImm _ _ | .movDirRn _ _ | .movDirInd _ _ | .movIndA _ | .movIndImm _ _
  | .movIndDir _ _ | .movDptrImm _ => .mov
  | .movxADptr | .movxAInd _ | .movxDptrA | .movxIndA _ => .movx
  | .movcADptr | .movcAPc => .movc
  | .push _ => .push
  | .pop _ => .pop
  | .xchADir _ | .xchAInd _ | .xchARn _ => .xch
  | .addAImm _ | .addADir _ | .addAInd _ | .addARn _ => .add
  | .addcAImm _ | .addcADir _ | .addcAInd _ | .addcARn _ => .addc
  | .subbAImm _ | .subbADir _ | .subbAInd _ | .subbARn _ => .subb
  | .incA | .incDir _ | .incInd _ | .incRn _ | .incDptr => .inc
  | .decA | .decDir _ | .decInd _ | .decRn _ => .dec
  | .anlAImm _ | .anlADir _ | .anlAInd _ | .anlARn _ | .anlDirA _ | .anlDirImm _ _ => .anl
  | .orlAImm _ | .orlADir _ | .orlAInd _ | .orlARn _ | .orlDirA _ | .orlDirImm _ _ => .orl
  | .xrlAImm _ | .xrlADir _ | .xrlAInd _ | .xrlARn _ | .xrlDirA _ | .xrlDirImm _ _ => .xrl
  | .clrA => .clrA
  | .cplA => .cplA
  | .clrC => .clrC
  | .setbC => .setbC
  | .cplC => .cplC
  | .clrBit _ => .clrB
  | .setbBit _ => .setbB
  | .cplBit _ => .cplB
  | .movCBit _ => .movCB
  | .movBitC _ => .movBC
  | .anlCBit _ | .anlCNbit _ => .anlC
  | .orlCBit _ | .orlCNbit _ => .orlC
  | .nop => .nop
  | .ljmp _ => .ljmp
  | .sjmp _ => .sjmp
  | .jmpADptr => .jmpi
  | .lcall _ => .lcall
  | .ret => .ret
  | .jc _ => .jc
  | .jnc _ => .jnc
  | .jz _ => .jz
  | .jnz _ => .jnz
  | .jb _ _ => .jb
  | .jnb _ _ => .jnb
  | .cjneAImm _ _ | .cjneADir _ _ | .cjneIndImm _ _ _ | .cjneRnImm _ _ _ => .cjne
  | .djnzDir _ _ | .djnzRn _ _ => .djnz

/-- The operand list of a form, in assembler order (R110, the form rules). Register indexes: A is 8, DPTR 11, PC 12. -/
def Instr.operands : Instr → List Operand
  | .movAImm imm => [.reg 8, .imm8 imm]
  | .movADir a => [.reg 8, .dir a]
  | .movAInd i => [.reg 8, .ind i.val]
  | .movARn n => [.reg 8, .reg n.val]
  | .movRnA n => [.reg n.val, .reg 8]
  | .movRnImm n imm => [.reg n.val, .imm8 imm]
  | .movRnDir n a => [.reg n.val, .dir a]
  | .movDirA a => [.dir a, .reg 8]
  | .movDirImm a imm => [.dir a, .imm8 imm]
  | .movDirRn a n => [.dir a, .reg n.val]
  | .movDirInd a i => [.dir a, .ind i.val]
  | .movIndA i => [.ind i.val, .reg 8]
  | .movIndImm i imm => [.ind i.val, .imm8 imm]
  | .movIndDir i a => [.ind i.val, .dir a]
  | .movDptrImm imm => [.reg 11, .imm16 imm]
  | .movxADptr => [.reg 8, .ind 11]
  | .movxAInd i => [.reg 8, .ind i.val]
  | .movxDptrA => [.ind 11, .reg 8]
  | .movxIndA i => [.ind i.val, .reg 8]
  | .movcADptr => [.reg 8, .idx 11]
  | .movcAPc => [.reg 8, .idx 12]
  | .push a => [.dir a]
  | .pop a => [.dir a]
  | .xchADir a => [.reg 8, .dir a]
  | .xchAInd i => [.reg 8, .ind i.val]
  | .xchARn n => [.reg 8, .reg n.val]
  | .addAImm imm => [.reg 8, .imm8 imm]
  | .addADir a => [.reg 8, .dir a]
  | .addAInd i => [.reg 8, .ind i.val]
  | .addARn n => [.reg 8, .reg n.val]
  | .addcAImm imm => [.reg 8, .imm8 imm]
  | .addcADir a => [.reg 8, .dir a]
  | .addcAInd i => [.reg 8, .ind i.val]
  | .addcARn n => [.reg 8, .reg n.val]
  | .subbAImm imm => [.reg 8, .imm8 imm]
  | .subbADir a => [.reg 8, .dir a]
  | .subbAInd i => [.reg 8, .ind i.val]
  | .subbARn n => [.reg 8, .reg n.val]
  | .incA => [.reg 8]
  | .incDir a => [.dir a]
  | .incInd i => [.ind i.val]
  | .incRn n => [.reg n.val]
  | .incDptr => [.reg 11]
  | .decA => [.reg 8]
  | .decDir a => [.dir a]
  | .decInd i => [.ind i.val]
  | .decRn n => [.reg n.val]
  | .anlAImm imm => [.reg 8, .imm8 imm]
  | .anlADir a => [.reg 8, .dir a]
  | .anlAInd i => [.reg 8, .ind i.val]
  | .anlARn n => [.reg 8, .reg n.val]
  | .anlDirA a => [.dir a, .reg 8]
  | .anlDirImm a imm => [.dir a, .imm8 imm]
  | .orlAImm imm => [.reg 8, .imm8 imm]
  | .orlADir a => [.reg 8, .dir a]
  | .orlAInd i => [.reg 8, .ind i.val]
  | .orlARn n => [.reg 8, .reg n.val]
  | .orlDirA a => [.dir a, .reg 8]
  | .orlDirImm a imm => [.dir a, .imm8 imm]
  | .xrlAImm imm => [.reg 8, .imm8 imm]
  | .xrlADir a => [.reg 8, .dir a]
  | .xrlAInd i => [.reg 8, .ind i.val]
  | .xrlARn n => [.reg 8, .reg n.val]
  | .xrlDirA a => [.dir a, .reg 8]
  | .xrlDirImm a imm => [.dir a, .imm8 imm]
  | .clrA => [.reg 8]
  | .cplA => [.reg 8]
  | .clrC => []
  | .setbC => []
  | .cplC => []
  | .clrBit b => [Operand.ofBitaddr b false]
  | .setbBit b => [Operand.ofBitaddr b false]
  | .cplBit b => [Operand.ofBitaddr b false]
  | .movCBit b => [Operand.ofBitaddr b false]
  | .movBitC b => [Operand.ofBitaddr b false]
  | .anlCBit b => [Operand.ofBitaddr b false]
  | .anlCNbit b => [Operand.ofBitaddr b true]
  | .orlCBit b => [Operand.ofBitaddr b false]
  | .orlCNbit b => [Operand.ofBitaddr b true]
  | .nop => []
  | .ljmp t => [.abs t]
  | .sjmp d => [.rel d]
  | .jmpADptr => [.idx 11]
  | .lcall t => [.abs t]
  | .ret => []
  | .jc d => [.rel d]
  | .jnc d => [.rel d]
  | .jz d => [.rel d]
  | .jnz d => [.rel d]
  | .jb b d => [Operand.ofBitaddr b false, .rel d]
  | .jnb b d => [Operand.ofBitaddr b false, .rel d]
  | .cjneAImm imm d => [.reg 8, .imm8 imm, .rel d]
  | .cjneADir a d => [.reg 8, .dir a, .rel d]
  | .cjneIndImm i imm d => [.ind i.val, .imm8 imm, .rel d]
  | .cjneRnImm n imm d => [.reg n.val, .imm8 imm, .rel d]
  | .djnzDir a d => [.dir a, .rel d]
  | .djnzRn n d => [.reg n.val, .rel d]

/-- The opcode byte of a form (R110); a register selector is added to the first byte of the form's range. -/
def Instr.opcodeByte : Instr → Byte
  | .movAImm _ => 0x74
  | .movADir _ => 0xE5
  | .movAInd i => 0xE6 + BitVec.ofNat 8 i.val
  | .movARn n => 0xE8 + BitVec.ofNat 8 n.val
  | .movRnA n => 0xF8 + BitVec.ofNat 8 n.val
  | .movRnImm n _ => 0x78 + BitVec.ofNat 8 n.val
  | .movRnDir n _ => 0xA8 + BitVec.ofNat 8 n.val
  | .movDirA _ => 0xF5
  | .movDirImm _ _ => 0x75
  | .movDirRn _ n => 0x88 + BitVec.ofNat 8 n.val
  | .movDirInd _ i => 0x86 + BitVec.ofNat 8 i.val
  | .movIndA i => 0xF6 + BitVec.ofNat 8 i.val
  | .movIndImm i _ => 0x76 + BitVec.ofNat 8 i.val
  | .movIndDir i _ => 0xA6 + BitVec.ofNat 8 i.val
  | .movDptrImm _ => 0x90
  | .movxADptr => 0xE0
  | .movxAInd i => 0xE2 + BitVec.ofNat 8 i.val
  | .movxDptrA => 0xF0
  | .movxIndA i => 0xF2 + BitVec.ofNat 8 i.val
  | .movcADptr => 0x93
  | .movcAPc => 0x83
  | .push _ => 0xC0
  | .pop _ => 0xD0
  | .xchADir _ => 0xC5
  | .xchAInd i => 0xC6 + BitVec.ofNat 8 i.val
  | .xchARn n => 0xC8 + BitVec.ofNat 8 n.val
  | .addAImm _ => 0x24
  | .addADir _ => 0x25
  | .addAInd i => 0x26 + BitVec.ofNat 8 i.val
  | .addARn n => 0x28 + BitVec.ofNat 8 n.val
  | .addcAImm _ => 0x34
  | .addcADir _ => 0x35
  | .addcAInd i => 0x36 + BitVec.ofNat 8 i.val
  | .addcARn n => 0x38 + BitVec.ofNat 8 n.val
  | .subbAImm _ => 0x94
  | .subbADir _ => 0x95
  | .subbAInd i => 0x96 + BitVec.ofNat 8 i.val
  | .subbARn n => 0x98 + BitVec.ofNat 8 n.val
  | .incA => 0x04
  | .incDir _ => 0x05
  | .incInd i => 0x06 + BitVec.ofNat 8 i.val
  | .incRn n => 0x08 + BitVec.ofNat 8 n.val
  | .incDptr => 0xA3
  | .decA => 0x14
  | .decDir _ => 0x15
  | .decInd i => 0x16 + BitVec.ofNat 8 i.val
  | .decRn n => 0x18 + BitVec.ofNat 8 n.val
  | .anlAImm _ => 0x54
  | .anlADir _ => 0x55
  | .anlAInd i => 0x56 + BitVec.ofNat 8 i.val
  | .anlARn n => 0x58 + BitVec.ofNat 8 n.val
  | .anlDirA _ => 0x52
  | .anlDirImm _ _ => 0x53
  | .orlAImm _ => 0x44
  | .orlADir _ => 0x45
  | .orlAInd i => 0x46 + BitVec.ofNat 8 i.val
  | .orlARn n => 0x48 + BitVec.ofNat 8 n.val
  | .orlDirA _ => 0x42
  | .orlDirImm _ _ => 0x43
  | .xrlAImm _ => 0x64
  | .xrlADir _ => 0x65
  | .xrlAInd i => 0x66 + BitVec.ofNat 8 i.val
  | .xrlARn n => 0x68 + BitVec.ofNat 8 n.val
  | .xrlDirA _ => 0x62
  | .xrlDirImm _ _ => 0x63
  | .clrA => 0xE4
  | .cplA => 0xF4
  | .clrC => 0xC3
  | .setbC => 0xD3
  | .cplC => 0xB3
  | .clrBit _ => 0xC2
  | .setbBit _ => 0xD2
  | .cplBit _ => 0xB2
  | .movCBit _ => 0xA2
  | .movBitC _ => 0x92
  | .anlCBit _ => 0x82
  | .anlCNbit _ => 0xB0
  | .orlCBit _ => 0x72
  | .orlCNbit _ => 0xA0
  | .nop => 0x00
  | .ljmp _ => 0x02
  | .sjmp _ => 0x80
  | .jmpADptr => 0x73
  | .lcall _ => 0x12
  | .ret => 0x22
  | .jc _ => 0x40
  | .jnc _ => 0x50
  | .jz _ => 0x60
  | .jnz _ => 0x70
  | .jb _ _ => 0x20
  | .jnb _ _ => 0x30
  | .cjneAImm _ _ => 0xB4
  | .cjneADir _ _ => 0xB5
  | .cjneIndImm i _ _ => 0xB6 + BitVec.ofNat 8 i.val
  | .cjneRnImm n _ _ => 0xB8 + BitVec.ofNat 8 n.val
  | .djnzDir _ _ => 0xD5
  | .djnzRn n _ => 0xD8 + BitVec.ofNat 8 n.val

/-- The bytes of an operand in the instruction stream, the inverse of R103 to R108. -/
def Operand.fieldBytes : Operand → List Byte
  | .reg _ | .ind _ | .idx _ => []
  | .imm8 v => [v]
  | .imm16 w => [w.extractLsb' 8 8, w.extractLsb' 0 8]
  | .dir a => [a]
  | .bit base k _ => [base ||| k.zeroExtend 8]
  | .rel d => [BitVec.ofInt 8 d]
  | .abs w => [w.extractLsb' 8 8, w.extractLsb' 0 8]

/-- The encoder: the canonical encoding of an instruction (R122). -/
def encode (i : Instr) : List Byte := i.opcodeByte :: i.operands.flatMap Operand.fieldBytes

/-- The encoded length of an instruction (R138). -/
def Instr.length (i : Instr) : Nat := (encode i).length

/-- The Opcode record of an instruction at an address (R47). -/
def Instr.opcode (i : Instr) (va : Word) : Opcode where
  address := va
  iid := i.iid.num
  mnem := i.iid.mnem
  prefixes := 0
  length := i.length
  operands := i.operands
  flags := i.iid.cf

/-- A working register selector. -/
def selRn (n : Nat) : Option (Fin 8) := if h : n < 8 then some ⟨n, h⟩ else none

/-- A pointer register selector. -/
def selRi (n : Nat) : Option (Fin 2) := if h : n < 2 then some ⟨n, h⟩ else none

/-- The bit-address byte of a bit operand. -/
def bitaddrOf (base : Byte) (k : BitVec 3) : Byte := base ||| k.zeroExtend 8

/-- The forms of iid mov, by operand shape. -/
def recogMov : List Operand → Option Instr
  | [.reg 8, .imm8 imm] => some (.movAImm imm)
  | [.reg 8, .dir a] => some (.movADir a)
  | [.dir a, .reg 8] => some (.movDirA a)
  | [.dir a, .imm8 imm] => some (.movDirImm a imm)
  | [.reg 11, .imm16 imm] => some (.movDptrImm imm)
  | [.reg 8, .ind i] => (selRi i).map .movAInd
  | [.reg 8, .reg n] => (selRn n).map .movARn
  | [.reg n, .reg 8] => (selRn n).map .movRnA
  | [.reg n, .imm8 imm] => (selRn n).map fun n => .movRnImm n imm
  | [.reg n, .dir a] => (selRn n).map fun n => .movRnDir n a
  | [.dir a, .reg n] => (selRn n).map fun n => .movDirRn a n
  | [.dir a, .ind i] => (selRi i).map fun i => .movDirInd a i
  | [.ind i, .reg 8] => (selRi i).map .movIndA
  | [.ind i, .imm8 imm] => (selRi i).map fun i => .movIndImm i imm
  | [.ind i, .dir a] => (selRi i).map fun i => .movIndDir i a
  | _ => none

/-- The forms of iid movx, by operand shape. -/
def recogMovx : List Operand → Option Instr
  | [.reg 8, .ind 11] => some .movxADptr
  | [.ind 11, .reg 8] => some .movxDptrA
  | [.reg 8, .ind i] => (selRi i).map .movxAInd
  | [.ind i, .reg 8] => (selRi i).map .movxIndA
  | _ => none

/-- The forms of iid movc, by operand shape. -/
def recogMovc : List Operand → Option Instr
  | [.reg 8, .idx 11] => some .movcADptr
  | [.reg 8, .idx 12] => some .movcAPc
  | _ => none

/-- The forms of iid xch, by operand shape. -/
def recogXch : List Operand → Option Instr
  | [.reg 8, .dir a] => some (.xchADir a)
  | [.reg 8, .ind i] => (selRi i).map .xchAInd
  | [.reg 8, .reg n] => (selRn n).map .xchARn
  | _ => none

/-- The forms of iid add, by operand shape. -/
def recogAdd : List Operand → Option Instr
  | [.reg 8, .imm8 imm] => some (.addAImm imm)
  | [.reg 8, .dir a] => some (.addADir a)
  | [.reg 8, .ind i] => (selRi i).map .addAInd
  | [.reg 8, .reg n] => (selRn n).map .addARn
  | _ => none

/-- The forms of iid addc, by operand shape. -/
def recogAddc : List Operand → Option Instr
  | [.reg 8, .imm8 imm] => some (.addcAImm imm)
  | [.reg 8, .dir a] => some (.addcADir a)
  | [.reg 8, .ind i] => (selRi i).map .addcAInd
  | [.reg 8, .reg n] => (selRn n).map .addcARn
  | _ => none

/-- The forms of iid subb, by operand shape. -/
def recogSubb : List Operand → Option Instr
  | [.reg 8, .imm8 imm] => some (.subbAImm imm)
  | [.reg 8, .dir a] => some (.subbADir a)
  | [.reg 8, .ind i] => (selRi i).map .subbAInd
  | [.reg 8, .reg n] => (selRn n).map .subbARn
  | _ => none

/-- The forms of iid inc, by operand shape. -/
def recogInc : List Operand → Option Instr
  | [.reg 8] => some .incA
  | [.dir a] => some (.incDir a)
  | [.reg 11] => some .incDptr
  | [.ind i] => (selRi i).map .incInd
  | [.reg n] => (selRn n).map .incRn
  | _ => none

/-- The forms of iid dec, by operand shape. -/
def recogDec : List Operand → Option Instr
  | [.reg 8] => some .decA
  | [.dir a] => some (.decDir a)
  | [.ind i] => (selRi i).map .decInd
  | [.reg n] => (selRn n).map .decRn
  | _ => none

/-- The forms of iid anl, by operand shape. -/
def recogAnl : List Operand → Option Instr
  | [.reg 8, .imm8 imm] => some (.anlAImm imm)
  | [.reg 8, .dir a] => some (.anlADir a)
  | [.dir a, .reg 8] => some (.anlDirA a)
  | [.dir a, .imm8 imm] => some (.anlDirImm a imm)
  | [.reg 8, .ind i] => (selRi i).map .anlAInd
  | [.reg 8, .reg n] => (selRn n).map .anlARn
  | _ => none

/-- The forms of iid orl, by operand shape. -/
def recogOrl : List Operand → Option Instr
  | [.reg 8, .imm8 imm] => some (.orlAImm imm)
  | [.reg 8, .dir a] => some (.orlADir a)
  | [.dir a, .reg 8] => some (.orlDirA a)
  | [.dir a, .imm8 imm] => some (.orlDirImm a imm)
  | [.reg 8, .ind i] => (selRi i).map .orlAInd
  | [.reg 8, .reg n] => (selRn n).map .orlARn
  | _ => none

/-- The forms of iid xrl, by operand shape. -/
def recogXrl : List Operand → Option Instr
  | [.reg 8, .imm8 imm] => some (.xrlAImm imm)
  | [.reg 8, .dir a] => some (.xrlADir a)
  | [.dir a, .reg 8] => some (.xrlDirA a)
  | [.dir a, .imm8 imm] => some (.xrlDirImm a imm)
  | [.reg 8, .ind i] => (selRi i).map .xrlAInd
  | [.reg 8, .reg n] => (selRn n).map .xrlARn
  | _ => none

/-- The forms of iid anlC, by operand shape. -/
def recogAnlC : List Operand → Option Instr
  | [.bit base k false] => some (.anlCBit (bitaddrOf base k))
  | [.bit base k true] => some (.anlCNbit (bitaddrOf base k))
  | _ => none

/-- The forms of iid orlC, by operand shape. -/
def recogOrlC : List Operand → Option Instr
  | [.bit base k false] => some (.orlCBit (bitaddrOf base k))
  | [.bit base k true] => some (.orlCNbit (bitaddrOf base k))
  | _ => none

/-- The forms of iid cjne, by operand shape. -/
def recogCjne : List Operand → Option Instr
  | [.reg 8, .imm8 imm, .rel d] => some (.cjneAImm imm d)
  | [.reg 8, .dir a, .rel d] => some (.cjneADir a d)
  | [.ind i, .imm8 imm, .rel d] => (selRi i).map fun i => .cjneIndImm i imm d
  | [.reg n, .imm8 imm, .rel d] => (selRn n).map fun n => .cjneRnImm n imm d
  | _ => none

/-- The forms of iid djnz, by operand shape. -/
def recogDjnz : List Operand → Option Instr
  | [.dir a, .rel d] => some (.djnzDir a d)
  | [.reg n, .rel d] => (selRn n).map fun n => .djnzRn n d
  | _ => none

/-- The form with this iid and these operands, if REF has it (R110). -/
def Instr.ofOperands (h : Iid) (ops : List Operand) : Option Instr :=
  match h with
  | .mov => recogMov ops
  | .movx => recogMovx ops
  | .movc => recogMovc ops
  | .push => match ops with | [.dir a] => some (.push a) | _ => none
  | .pop => match ops with | [.dir a] => some (.pop a) | _ => none
  | .xch => recogXch ops
  | .add => recogAdd ops
  | .addc => recogAddc ops
  | .subb => recogSubb ops
  | .inc => recogInc ops
  | .dec => recogDec ops
  | .anl => recogAnl ops
  | .orl => recogOrl ops
  | .xrl => recogXrl ops
  | .clrA => match ops with | [.reg 8] => some .clrA | _ => none
  | .cplA => match ops with | [.reg 8] => some .cplA | _ => none
  | .clrC => match ops with | [] => some .clrC | _ => none
  | .setbC => match ops with | [] => some .setbC | _ => none
  | .cplC => match ops with | [] => some .cplC | _ => none
  | .clrB => match ops with | [.bit base k false] => some (.clrBit (bitaddrOf base k)) | _ => none
  | .setbB => match ops with | [.bit base k false] => some (.setbBit (bitaddrOf base k)) | _ => none
  | .cplB => match ops with | [.bit base k false] => some (.cplBit (bitaddrOf base k)) | _ => none
  | .movCB => match ops with | [.bit base k false] => some (.movCBit (bitaddrOf base k)) | _ => none
  | .movBC => match ops with | [.bit base k false] => some (.movBitC (bitaddrOf base k)) | _ => none
  | .anlC => recogAnlC ops
  | .orlC => recogOrlC ops
  | .nop => match ops with | [] => some .nop | _ => none
  | .ljmp => match ops with | [.abs t] => some (.ljmp t) | _ => none
  | .sjmp => match ops with | [.rel d] => some (.sjmp d) | _ => none
  | .jmpi => match ops with | [.idx 11] => some .jmpADptr | _ => none
  | .lcall => match ops with | [.abs t] => some (.lcall t) | _ => none
  | .ret => match ops with | [] => some .ret | _ => none
  | .jc => match ops with | [.rel d] => some (.jc d) | _ => none
  | .jnc => match ops with | [.rel d] => some (.jnc d) | _ => none
  | .jz => match ops with | [.rel d] => some (.jz d) | _ => none
  | .jnz => match ops with | [.rel d] => some (.jnz d) | _ => none
  | .jb => match ops with | [.bit base k false, .rel d] => some (.jb (bitaddrOf base k) d) | _ => none
  | .jnb => match ops with | [.bit base k false, .rel d] => some (.jnb (bitaddrOf base k) d) | _ => none
  | .cjne => recogCjne ops
  | .djnz => recogDjnz ops

/-- The instruction an Opcode record stands for, if it is of a REF form. -/
def Instr.ofOpcode (opc : Opcode) : Option Instr :=
  match Iid.ofNum opc.iid with
  | some h => Instr.ofOperands h opc.operands
  | none => none

/-- The decoder of the REF ROM with the instruction it reads; an illegal encoding is rejected by its error (R401, R402).
Every Opcode of the REF ROM is of a form of R110, so the last error does not arise. -/
def decodeInstr (bytes : List Byte) : Except DecodeError Instr :=
  match decode refCfg bytes 0 0 with
  | .ok opc =>
    match Instr.ofOpcode opc with
    | some i => .ok i
    | none => .error (.malformed none (bytes.headD 0))
  | .error e => .error e

/-- Byte `j` of an instruction whose bits are numbered as opcode_table.json numbers them, the first byte lowest. -/
def tableByte (nbits w j : Nat) : Byte := BitVec.ofNat 8 (w % 2 ^ nbits / 2 ^ (8 * j))

/-- The instruction the decoder reads from an instruction's bits, three bytes long (the longest of REF, R90) with
every bit above `nbits` zero. -/
def decodeTableWord (nbits w : Nat) : Option Instr :=
  match decodeInstr [tableByte nbits w 0, tableByte nbits w 1, tableByte nbits w 2] with
  | .ok i => some i
  | .error _ => none

end Sys2Proof
end

