-- ==== Sys2Proof/Machine/State.lean ====
section
/-! DEFINITION. The state of the block, which is exactly three things (R20), the errors a transaction can end in
(R400 to R409), the one refusal, and the state after reset (R44). -/

namespace Sys2Proof.Machine

/-- STORE (R20, R45): the defined cells by physical offset, offsets strictly rising. An offset that is not listed
holds `UNDEF`, which is what reset leaves in every cell nobody has written (R44, R430). -/
abbrev Memory := List Host.Cell

/-- The canonical form of a store: offsets strictly rising. No entry can equal what an unlisted offset reads as,
since an entry holds a defined byte and an unlisted offset holds `UNDEF`. -/
abbrev Memory.wf (m : Memory) : Prop := m.Pairwise fun x y => x.1 < y.1

/-- The state (R20). Every register but PC is a view of `store` (R27, R28). -/
structure State where
  /-- STORE. -/
  store : Memory
  /-- PCCELL (R32): the program counter, `none` for `UNDEF`. -/
  pc : Option Word
  /-- UFLAGS (R37): while it is set the four flags are undefined. -/
  uflags : Bool
  deriving DecidableEq, Repr

/-- Which access had the undefined address (R407). -/
inductive AccessId where
  /-- The operand with this position in the operand list. -/
  | operand (position : Nat)
  /-- The register with this index. -/
  | register (idx : Nat)
  /-- A push. -/
  | stack
  deriving DecidableEq, Repr

/-- Which table entry was found malformed (R408). -/
inductive TableDefect where
  /-- The entry of this byte in the main decode table (`none`) or in a sub-table (R115). -/
  | romEntry (table : Option Nat) (b : Byte)
  /-- The register descriptor of this index, or its absence (R183). -/
  | register (idx : Nat)
  /-- An operand whose variant lacks the operation asked for, or an absent one (R145, R146). -/
  | operand (position : Nat)
  /-- The entry of this name in the segment table, or its absence (R61). -/
  | segment (name : SegName)
  deriving DecidableEq, Repr

/-- The errors of R400. Each ends its transaction and leaves the state as it was (R410): the machine stops where the
spec stops it, so every one is safe. -/
inductive Fault where
  /-- Code 1 (R401): the byte has no decode-table entry; the address is the unchanged PC for `step`, `none` for
  `decode` alone. Raised by `step`. Safe. -/
  | invalidInstruction (b : Byte) (address : Option Word)
  /-- Code 2 (R402): so many bytes were needed at this offset from the instruction's start. Raised by `step` at the
  end of the CODE window. Safe. -/
  | truncatedInstruction (need : Nat) (at_ : Nat)
  /-- Code 3 (R403): no handler for this iid. Raised by `execute` of an Opcode the host built. Safe. -/
  | unsupportedInstruction (iid : BitVec 8)
  /-- Code 4 (R404): the segment name is not registered. Raised by `load` and `peek` of such a name, and under a CFG
  other than REF by any access. Safe. -/
  | unknownSegment (name : SegName)
  /-- Code 5 (R409): listed for the source's taxonomy; no transaction of the block raises it. Safe. -/
  | unknownCallingConvention
  /-- Code 6 (R405): the logical address is outside the segment's window. Raised by `movx` through `@DPTR`, by `movc`,
  and by `load` and `peek`. Safe. -/
  | storeFault (seg : SegName) (address : Nat)
  /-- Code 7 (R406): PC is `UNDEF` (`none`), or the code cell at this address is. Raised by `step`. Safe. -/
  | undefinedFetch (address : Option Word)
  /-- Code 8 (R407): a write whose address is `UNDEF`. Raised by every form that writes through a pointer, a banked
  register or the stack, and by `rf_set`. Safe. -/
  | undefinedAddress (access : AccessId)
  /-- Code 9 (R408): CFG is not well formed, or the host named an absent register. Safe. -/
  | malformedTable (entry : TableDefect)
  deriving DecidableEq, Repr

/-- Refusals. -/
inductive Refusal where
  /-- An instruction that has no meaning yet, raised in `exec`'s arm; no arm of this model raises it. Safe. -/
  | notModelled (mnemonic : String)
  deriving DecidableEq, Repr

/-- The state after reset (R44): SP 0x07, DPTR 0x0000, PSW 0x00, A 0x00, PC 0x0000, UFLAGS 0, every other cell
`UNDEF`. `test_reset_transaction` of the tests shows it equal to the
`reset` transaction (R430) of REF. -/
def State.reset : State where
  store := [(0x81, 0x07), (0x82, 0x00), (0x83, 0x00), (0xD0, 0x00), (0xE0, 0x00)]
  pc := some 0x0000
  uflags := false

end Sys2Proof.Machine
end

