-- ==== Sys2Proof/Machine/Memory.lean ====
section
/-! DEFINITION. The store's two operations (R45): reading and writing one cell by physical offset. -/

namespace Sys2Proof.Machine

/-- The cell at a physical offset; an unlisted offset holds `UNDEF`. -/
def Memory.read : Memory → Nat → Cell
  | [], _ => none
  | (q, b) :: m, p => if q = p then some b else Memory.read m p

/-- Put an entry in front of the first entry with a larger offset. -/
def Memory.insert (p : Nat) (b : Byte) : Memory → Memory
  | [] => [(p, b)]
  | (q, c) :: m => if p < q then (p, b) :: (q, c) :: m else (q, c) :: Memory.insert p b m

/-- The store without the entry of an offset. -/
def Memory.erase (m : Memory) (p : Nat) : Memory := m.filter fun x => x.1 ≠ p

/-- Write one cell. Writing `UNDEF` removes the entry, so that the canonical form is kept. -/
def Memory.write (m : Memory) (p : Nat) : Cell → Memory
  | none => m.erase p
  | some b => (m.erase p).insert p b

end Sys2Proof.Machine
end

