-- ==== Sys2Proof/Machine/Ops.lean ====
section
/-! DEFINITION. The shared operations: values, segments and their selection (R61 to R68), the access primitives
(R69 to R72), the register file with banking, split storage and hooks (R170 to R183), the stack (R212, R213), the PC
(R193) and the end of a transaction, normal or in an error (R194, R410). Every operation is stated over a `Block`,
an instance of CFG with its hooks; `ref` is REF. -/

namespace Sys2Proof.Machine

/-! ## The block -/

/-- One block: CFG (R7) and, per register, the hook mode and the two optional hooks of its descriptor (R25, R42, R177).
A hook sees the state and changes nothing in the block (log entry 6). -/
structure Block where
  cfg : Cfg
  hookMode : Nat → HookMode
  readHook : Nat → Option (State → Val)
  writeHook : Nat → Option (State → Val → Unit)

/-- REF (R7, R8): no register has an external hook (R42). -/
def ref : Block := ⟨refCfg, fun _ => .none, fun _ => none, fun _ => none⟩

/-- REF with the other value of the open parameter `THRESH_SCOPE` (R67, D6). -/
def refNarrow : Block :=
  ⟨{ refCfg with threshScope := .directBitReg }, fun _ => .none, fun _ => none, fun _ => none⟩

/-- Whether a register has an external hook that is called (R177). -/
def Block.hooked (k : Block) (idx : Nat) : Bool :=
  k.hookMode idx != .none && ((k.readHook idx).isSome || (k.writeHook idx).isSome)

/-! ## Errors -/

/-- The number of an error kind (R400); 0 is kept for "no error". -/
def Fault.code : Fault → Nat
  | .invalidInstruction _ _ => 1
  | .truncatedInstruction _ _ => 2
  | .unsupportedInstruction _ => 3
  | .unknownSegment _ => 4
  | .unknownCallingConvention => 5
  | .storeFault _ _ => 6
  | .undefinedFetch _ => 7
  | .undefinedAddress _ => 8
  | .malformedTable _ => 9

/-- What a handler did to control flow (R193): nothing, or `pc <- t`, where `none` is `UNDEF` (R218). -/
inductive Flow where
  | next
  | goto (t : Option Word)
  deriving DecidableEq, Repr

/-- The end of a transaction (R194, R400, R410, R415). There is no trap entry: an error saves nothing, moves no PC
and goes to no vector; it is handed to the host and the state is the one before the transaction. -/
def settle (r : Except Fault State) : Host.Outcome State Fault Refusal :=
  match r with
  | .ok s => .next s
  | .error f => .fault f

/-! ## Values (R10, R179) -/

/-- The value of a cell. -/
def Val.ofCell : Cell → Val
  | none => .undef
  | some b => .byte b

/-- The value of a 16-bit quantity that may be `UNDEF`. -/
def Val.ofWord : Option Word → Val
  | none => .undef
  | some w => .word w

/-- The value of a bit that may be `UNDEF`. -/
def Val.ofBit : Option Bool → Val
  | none => .undef
  | some b => .bit b

/-- `v[7:0]`, zero-extended when narrower (R146). -/
def valCell : Val → Cell
  | .undef => none
  | .bit b => some ((BitVec.ofBool b).zeroExtend 8)
  | .byte b => some b
  | .word w => some (w.extractLsb' 0 8)

/-- `v[15:0]`, zero-extended when narrower (R146, R154). -/
def valWord : Val → Option Word
  | .undef => none
  | .bit b => some ((BitVec.ofBool b).zeroExtend 16)
  | .byte b => some (b.zeroExtend 16)
  | .word w => some w

/-- `v[0]` (R146). -/
def valBit : Val → Option Bool
  | .undef => none
  | .bit b => some b
  | .byte b => some (b.getLsbD 0)
  | .word w => some (w.getLsbD 0)

/-- The value at a register's width of one or two bytes (R179). -/
def fitWidth (widthBytes : Nat) (v : Val) : Val :=
  if widthBytes = 1 then Val.ofCell (valCell v) else Val.ofWord (valWord v)

/-- The value of the cells of a multi-byte quantity, most significant first: `UNDEF` if any cell is (R45, R174). -/
def assemble : List Cell → Option Val
  | [x] => some (Val.ofCell x)
  | [some h, some l] => some (.word (h ++ l))
  | [_, _] => some .undef
  | _ => none

/-- The cells of a value, most significant first (R175); `UNDEF` makes every cell `UNDEF`. -/
def disassemble (widthBytes : Nat) (v : Val) : Option (List Cell) :=
  match widthBytes with
  | 1 => some [valCell v]
  | 2 =>
    match valWord v with
    | some w => some [some (w.extractLsb' 8 8), some (w.extractLsb' 0 8)]
    | none => some [none, none]
  | _ => none

/-! ## Segments (R61 to R68) -/

/-- `resolve` (R61). -/
def resolve (k : Block) (n : SegName) : Except Fault Segment :=
  match k.cfg.segments.find? (fun s => s.name == n) with
  | some s => .ok s
  | none => .error (.unknownSegment n)

/-- The physical offset of a logical address, `translate` (R62), after the store's window check (R64). -/
def locate (k : Block) (n : SegName) (a : Nat) : Except Fault Nat :=
  match resolve k n with
  | .error e => .error e
  | .ok g => if g.base ≤ a ∧ a < g.base + g.size then .ok (a + g.backingOffset) else .error (.storeFault n a)

/-- Which accesses the threshold governs (R66). -/
def inScope : ThreshScope → AccessKind → Bool
  | .all, _ => true
  | .directBitReg, .direct | .directBitReg, .bit | .directBitReg, .regStorage => true
  | .directBitReg, .indirect | .directBitReg, .indexed | .directBitReg, .stack => false

/-- The segment a data access resolves to (R66). -/
def sel (k : Block) (t : SegTag) (kind : AccessKind) (a : Nat) : SegName :=
  if k.cfg.sfrThreshold ≤ a ∧ inScope k.cfg.threshScope kind then .sfr else t.segName

/-! ## One cell, by physical offset -/

/-- The physical offset of the status register (R34), from its descriptor. An index with no descriptor is a table error
(R183, R408); so is, by this model's choice, a status register that is not one `Direct` byte (log entry 10). The byte
has the address its descriptor gives: its own `banked` mark selects nothing here (log entry 10). -/
def statusCell (k : Block) : Except Fault Nat :=
  match k.cfg.registers[k.cfg.statusReg]? with
  | none => .error (.malformedTable (.register k.cfg.statusReg))
  | some d =>
    match d.storage with
    | .direct a =>
      if d.WellFormed ∧ d.widthBytes = 1 then locate k (sel k .idata .regStorage a) a
      else .error (.malformedTable (.register k.cfg.statusReg))
    | .split _ _ | .computed => .error (.malformedTable (.register k.cfg.statusReg))

/-- The status register's offset, where there is one; under another CFG no cell has the overlay (log entry 10). -/
def statusOffset (k : Block) : Option Nat := (statusCell k).toOption

/-- Whether a physical offset is the status register's. -/
def isStatus (k : Block) (p : Nat) : Bool := statusOffset k == some p

/-- The stored status byte, without the overlay (R29, R38). Where `statusCell` has no offset this is no value of a
register: every reader asks `statusCell` first and ends in its error (log entry 10). -/
def rawStatus (k : Block) (s : State) : Cell := (statusOffset k).bind s.store.read

/-- A data read of a cell (R69): the status byte reads `UNDEF` while UFLAGS is set (R38). -/
def readCell (k : Block) (p : Nat) (s : State) : Cell :=
  if isStatus k p && s.uflags then none else s.store.read p

/-- A byte write of a cell (R70): a defined byte written to the status register clears UFLAGS (R40). -/
def putCell (k : Block) (p : Nat) (v : Cell) (s : State) : State :=
  { s with store := s.store.write p v, uflags := s.uflags && !(isStatus k p && v.isSome) }

/-- The bit positions of the four flags. -/
def flagBits (c : Cfg) : List Nat := [c.cBit, c.acBit, c.ovBit, c.pBit]

/-- A byte with one bit replaced. -/
def setBit (x : Byte) (b : Nat) (v : Bool) : Byte :=
  if v then x ||| (1 <<< b) else x &&& ~~~((1 : Byte) <<< b)

/-- A bit read of a cell (R71), with the overlay on the flag bits of the status byte (R38). -/
def readBit (k : Block) (p b : Nat) (s : State) : Option Bool :=
  match s.store.read p with
  | none => none
  | some x => if isStatus k p && s.uflags && (flagBits k.cfg).contains b then none else some (x.getLsbD b)

/-- A bit write of a cell (R71): the stored byte is read, one bit replaced and the byte written back; an `UNDEF` bit
makes the byte `UNDEF`, an `UNDEF` byte stays so. UFLAGS does not change (R40). -/
def putBit (p b : Nat) (v : Option Bool) (s : State) : State :=
  match v with
  | none => { s with store := s.store.write p none }
  | some v =>
    match s.store.read p with
    | none => s
    | some x => { s with store := s.store.write p (some (setBit x b v)) }

/-! ## The access primitives (R69 to R71) -/

/-- `MemRead(seg, a, 1)`. -/
def memRead (k : Block) (n : SegName) (a : Nat) (s : State) : Except Fault Cell := do
  let p ← locate k n a
  return readCell k p s

/-- `MemWrite(seg, a, 1, v)`. -/
def memWrite (k : Block) (n : SegName) (a : Nat) (v : Cell) (s : State) : Except Fault State := do
  let p ← locate k n a
  return putCell k p v s

/-- `MemReadBit(seg, a, b)`. -/
def memReadBit (k : Block) (n : SegName) (a b : Nat) (s : State) : Except Fault (Option Bool) := do
  let p ← locate k n a
  return readBit k p b s

/-- `MemWriteBit(seg, a, b, v)`. -/
def memWriteBit (k : Block) (n : SegName) (a b : Nat) (v : Option Bool) (s : State) : Except Fault State := do
  let p ← locate k n a
  return putBit p b v s

/-! ## The register file (R170 to R183) -/

/-- `banked_address` (R29, R173): evaluated on every access; `UNDEF` when the stored status byte is. -/
def bankedAddress (k : Block) (base : Nat) (s : State) : Option Nat :=
  (rawStatus k s).map fun b => base + (b &&& k.cfg.bankMask).toNat

/-- The first storage address of a `Direct` register (R170); `none` is `UNDEF`. The bank select of a banked register
reads the status register, and the error of `statusCell` is its (R183, log entry 10). -/
def directAddress (k : Block) (d : RegDesc) (base : Nat) (s : State) : Except Fault (Option Nat) :=
  if d.banked then do
    let _ ← statusCell k
    return bankedAddress k base s
  else .ok (some base)

/-- The bytes of a register at its storage addresses, in the order listed (R170, R172, R174); they are in the IDATA
class whatever the instruction (R68). -/
def readRegBytes (k : Block) (addrs : List Nat) (s : State) : Except Fault (List Cell) :=
  addrs.mapM fun a => memRead k (sel k .idata .regStorage a) a s

/-- Write a register's bytes at its storage addresses, in the order listed (R171, R175). -/
def writeRegBytes (k : Block) (cells : List (Nat × Cell)) (s : State) : Except Fault State :=
  cells.foldlM (fun s x => memWrite k (sel k .idata .regStorage x.1) x.1 x.2 s) s

/-- The value of the bytes of register `idx`, or MalformedTable for a width the block does not have (R26). -/
def assembleReg (idx : Nat) (cells : List Cell) : Except Fault Val :=
  match assemble cells with
  | some v => .ok v
  | none => .error (.malformedTable (.register idx))

/-- The default path of `get` (R170, R172, R174) and the built-in read hook of PC (R176). -/
def regGetDefault (k : Block) (idx : Nat) (d : RegDesc) (s : State) : Except Fault Val :=
  match d.storage with
  | .direct base => do
    match ← directAddress k d base s with
    | none => .ok .undef
    | some a =>
      let cs ← readRegBytes k ((List.range d.widthBytes).map (a + ·)) s
      assembleReg idx cs
  | .split addrs msbFirst => do
    let cs ← readRegBytes k addrs s
    assembleReg idx (if msbFirst then cs else cs.reverse)
  | .computed =>
    if idx = k.cfg.pcReg then .ok (Val.ofWord s.pc)
    else .error (.malformedTable (.register idx))

/-- `get(index)` (R170). A descriptor that breaks R26 is met here (R408). Under `replace` the value is the read hook's,
at the register's width; a register without a read hook takes the default path, and so does one in mode `also`, whose
hook's answer is ignored (R177). -/
def regGet (k : Block) (idx : Nat) (s : State) : Except Fault Val :=
  match k.cfg.registers[idx]? with
  | none => .error (.malformedTable (.register idx))
  | some d =>
    if d.WellFormed then
      match k.hookMode idx, k.readHook idx with
      | .replace, some hook => .ok (fitWidth d.widthBytes (hook s))
      | .replace, none | .none, _ | .also, _ => regGetDefault k idx d s
    else .error (.malformedTable (.register idx))

/-- The default path of `set` (R171, R175) and the built-in write hook of PC (R176). -/
def regSetDefault (k : Block) (idx : Nat) (d : RegDesc) (v : Val) (s : State) : Except Fault State :=
  match d.storage with
  | .computed =>
    if idx = k.cfg.pcReg then .ok { s with pc := valWord v }
    else .error (.malformedTable (.register idx))
  | .direct base =>
    match disassemble d.widthBytes v with
    | none => .error (.malformedTable (.register idx))
    | some cs => do
      match ← directAddress k d base s with
      | none => .error (.undefinedAddress (.register idx))
      | some a => writeRegBytes k (((List.range d.widthBytes).map (a + ·)).zip cs) s
  | .split addrs msbFirst =>
    match disassemble d.widthBytes v with
    | none => .error (.malformedTable (.register idx))
    | some cs => writeRegBytes k (addrs.zip (if msbFirst then cs else cs.reverse)) s

/-- The block after a call of a write hook: what the hook does lies outside the block (R177). -/
def afterHook (_ : Unit) (s : State) : State := s

/-- `set(index, v)` (R171). A descriptor that breaks R26 is met here (R408). Under `replace` the value, at the register's
width, goes to the write hook and nothing is stored; under `also` it is stored and then goes to the hook; a register
without a write hook takes the default path (R177). -/
def regSet (k : Block) (idx : Nat) (v : Val) (s : State) : Except Fault State :=
  match k.cfg.registers[idx]? with
  | none => .error (.malformedTable (.register idx))
  | some d =>
    if d.WellFormed then
      match k.hookMode idx, k.writeHook idx with
      | .replace, some hook => .ok (afterHook (hook s (fitWidth d.widthBytes v)) s)
      | .also, some hook => do
        let t ← regSetDefault k idx d v s
        return afterHook (hook t (fitWidth d.widthBytes v)) t
      | .replace, none | .also, none | .none, _ => regSetDefault k idx d v s
    else .error (.malformedTable (.register idx))

/-! ## The stack (R212, R213) -/

/-- The stack pointer before a push. -/
def spPushed (c : Cfg) (sp : Byte) : Byte :=
  match c.stackDir with
  | .up => sp + 1
  | .down => sp - 1

/-- The stack pointer after a pop. -/
def spPopped (c : Cfg) (sp : Byte) : Byte :=
  match c.stackDir with
  | .up => sp - 1
  | .down => sp + 1

/-- `push(v)` (R212), `v` a byte or `UNDEF`. A stack pointer that CFG makes wider than a byte counts by its low byte
(log entry 21). -/
def push (k : Block) (v : Cell) (s : State) : Except Fault State := do
  let sp ← regGet k k.cfg.spReg s
  match valCell sp with
  | none => .error (.undefinedAddress .stack)
  | some sp => do
    let sp1 := spPushed k.cfg sp
    let s ← regSet k k.cfg.spReg (.byte sp1) s
    memWrite k (sel k .idata .stack sp1.toNat) sp1.toNat v s

/-- `pop()` (R213); a wider stack pointer counts by its low byte (log entry 21). -/
def pop (k : Block) (s : State) : Except Fault (Cell × State) := do
  let sp ← regGet k k.cfg.spReg s
  match valCell sp with
  | none => .ok (none, s)
  | some sp => do
    let v ← memRead k (sel k .idata .stack sp.toNat) sp.toNat s
    let s ← regSet k k.cfg.spReg (.byte (spPopped k.cfg sp)) s
    return (v, s)

/-- `x[PC_REG] <- t`, the execute unit's write of the program counter (R193). -/
def setPc (k : Block) (t : Option Word) (s : State) : Except Fault State := regSet k k.cfg.pcReg (Val.ofWord t) s

end Sys2Proof.Machine
end

