-- ==== Sys2Proof/Machine/Flags.lean ====
section
/-! DEFINITION. The four flags (R35, R38, R39), the ALU (R195 to R210) and the propagation of `UNDEF` (R207). -/

namespace Sys2Proof.Machine

/-! ## The flags -/

/-- The four flags (R34). -/
inductive Flag where
  | c | ac | ov | p
  deriving DecidableEq, Repr

/-- `F_BIT`, a flag's position in the status byte (R8). -/
def Flag.pos (c : Cfg) : Flag → Nat
  | .c => c.cBit
  | .ac => c.acBit
  | .ov => c.ovBit
  | .p => c.pBit

/-- `flag(F)` (R38): `UNDEF` while UFLAGS is set or the stored status byte is `UNDEF`. -/
def flag (k : Block) (f : Flag) (s : State) : Option Bool :=
  if s.uflags then none else (rawStatus k s).map (·.getLsbD (f.pos k.cfg))

/-- `flag(F)` as a handler reads it: under a CFG without a status register the read is a table error (R183, R408, log
entry 10). -/
def readFlag (k : Block) (f : Flag) (s : State) : Except Fault (Option Bool) := do
  let _ ← statusCell k
  return flag k f s

/-- A flag write `flags <- {...}` (R39): a flag that is not written is `none`, one written with `UNDEF` is `some none`. -/
structure FlagWrite where
  c : Option (Option Bool) := none
  ac : Option (Option Bool) := none
  ov : Option (Option Bool) := none
  p : Option (Option Bool) := none
  deriving DecidableEq, Repr

/-- Replace one stored flag bit if the flag is written with a defined value (R39 step 1). -/
def storeFlag (pos : Nat) (u : Option (Option Bool)) (b : Byte) : Byte :=
  match u with
  | some (some v) => setBit b pos v
  | some none | none => b

/-- The stored status byte after a flag write (R39 step 1). -/
def FlagWrite.byte (c : Cfg) (w : FlagWrite) (b : Byte) : Byte :=
  storeFlag c.pBit w.p (storeFlag c.ovBit w.ov (storeFlag c.acBit w.ac (storeFlag c.cBit w.c b)))

/-- UFLAGS after a flag write (R39 steps 2 to 4). -/
def FlagWrite.uflags (w : FlagWrite) (u : Bool) : Bool :=
  if [w.c, w.ac, w.ov, w.p].contains (some none) then true
  else if [w.c, w.ac, w.ov, w.p].all Option.isSome then false
  else u

/-- `flags <- {...}` (R39); an `UNDEF` stored status byte stays `UNDEF`. -/
def writeFlags (k : Block) (w : FlagWrite) (s : State) : State :=
  { s with
    store := match statusOffset k, rawStatus k s with
      | some p, some b => s.store.write p (some (w.byte k.cfg b))
      | _, _ => s.store
    uflags := w.uflags s.uflags }

/-- `flags <- {...}` as a handler writes them: under a CFG without a status register the write is a table error (R183,
R408, log entry 10). -/
def setFlags (k : Block) (w : FlagWrite) (s : State) : Except Fault State := do
  let _ ← statusCell k
  return writeFlags k w s

/-! ## The ALU on defined inputs -/

/-- The outputs of ADD and SUB (R195). -/
structure AluOut (w : Nat) where
  r : BitVec w
  c : Bool
  ac : Bool
  ov : Bool
  p : Bool
  deriving DecidableEq, Repr

/-- Parity (R204): true when the low byte has an even number of 1 bits; of a bit, that bit counts
alone (log entry 14). -/
def parity {w : Nat} (v : BitVec w) : Bool := ((List.range 8).countP fun j => v.getLsbD j) % 2 == 0

/-- Whether a signed result is outside the signed range of `w` bits (R201). -/
def signedOverflow (w : Nat) (sr : Int) : Bool := decide (sr > 2 ^ (w - 1) - 1 ∨ sr < -(2 ^ (w - 1)))

/-- ADD on mathematical integers (R196). -/
def aluAdd (w : Nat) (a b : BitVec w) (cin : Bool) : AluOut w :=
  let ur := a.toNat + b.toNat + cin.toNat
  let sr := a.toInt + b.toInt + cin.toNat
  let nr := a.toNat % 16 + b.toNat % 16 + cin.toNat
  let r := BitVec.ofNat w ur
  { r := r, c := decide (ur > 2 ^ w - 1), ac := decide (nr > 15), ov := signedOverflow w sr, p := parity r }

/-- SUB on mathematical integers (R197): carry and auxiliary carry are borrows. -/
def aluSub (w : Nat) (a b : BitVec w) (cin : Bool) : AluOut w :=
  let ur : Int := a.toNat - b.toNat - cin.toNat
  let sr : Int := a.toInt - b.toInt - cin.toNat
  let nr : Int := (a.toNat % 16 : Nat) - (b.toNat % 16 : Nat) - cin.toNat
  let r := BitVec.ofInt w ur
  { r := r, c := decide (ur < 0), ac := decide (nr < 0), ov := signedOverflow w sr, p := parity r }

/-! ## The ALU on values (R198, R207) -/

/-- A value at the destination's width (R198): sign-extended when narrower, truncated when wider. -/
def atWidth (w : Nat) : Val → Option (BitVec w)
  | .undef => none
  | .bit b => some ((BitVec.ofBool b).signExtend w)
  | .byte b => some (b.signExtend w)
  | .word x => some (x.signExtend w)

/-- The value of a bit vector of one of the three widths; any other width has no value. -/
def valOfBits {w : Nat} (x : BitVec w) : Val :=
  if w = 1 then .bit (x.getLsbD 0) else if w = 8 then .byte (x.setWidth 8) else .word (x.setWidth 16)

/-- The width of a defined value. -/
def valWidth : Val → Nat
  | .undef => 0
  | .bit _ => 1
  | .byte _ => 8
  | .word _ => 16

/-- All four flags written from an ALU output (R39). -/
def AluOut.flags {w : Nat} (o : AluOut w) : FlagWrite := ⟨some (some o.c), some (some o.ac), some (some o.ov), some (some o.p)⟩

/-- All four flags `UNDEF` (R207). -/
def undefFlags : FlagWrite := ⟨some none, some none, some none, some none⟩

/-- ADD or SUB at the width of the destination `a` (R198), `UNDEF` in giving `UNDEF` out (R207). -/
def arith (op : (w : Nat) → BitVec w → BitVec w → Bool → AluOut w) (a b : Val) (cin : Option Bool) :
    Val × FlagWrite :=
  match atWidth (valWidth a) a, atWidth (valWidth a) b, cin with
  | some x, some y, some ci =>
    let o := op (valWidth a) x y ci
    (valOfBits o.r, o.flags)
  | _, _, _ => (.undef, undefFlags)

/-- AND, OR, XOR (R203), with P of the result. R203 has two 8-bit values; operands of other widths, which no REF form
has, are taken at the width of the destination `a`, the source `b` sign-extended or truncated to it (log entry 22). -/
def logic (op : (w : Nat) → BitVec w → BitVec w → BitVec w) (a b : Val) : Val × FlagWrite :=
  match atWidth (valWidth a) a, atWidth (valWidth a) b with
  | some x, some y =>
    let r := op (valWidth a) x y
    (valOfBits r, { p := some (some (parity r)) })
  | _, _ => (.undef, { p := some none })

/-- INC, DEC and NOT: one operand, no carry (R203, R206). -/
def unary (op : (w : Nat) → BitVec w → BitVec w) (a : Val) : Val :=
  match atWidth (valWidth a) a with
  | some x => valOfBits (op (valWidth a) x)
  | none => .undef

/-- INC (R206). -/
def aluInc (a : Val) : Val := unary (fun _ x => x + 1) a

/-- DEC (R206), at the operand's width; DJNZ too, whose rule (R379) writes 8 bits (log entry 14). -/
def aluDec (a : Val) : Val := unary (fun _ x => x - 1) a

/-- NOT (R203), on 8 bits; a value of another width is complemented at that width (log entry 22). -/
def aluNot (a : Val) : Val := unary (fun _ x => ~~~x) a

/-- PAR of a value (R204, R207). -/
def parityOf : Val → Option Bool
  | .undef => none
  | .bit b => some (parity (BitVec.ofBool b))
  | .byte b => some (parity b)
  | .word w => some (parity w)

/-- CMP (R209): not equal, and unsigned below; `none` when an input is `UNDEF`. R209 compares two 8-bit values; operands
of other widths, which only a host-built CJNE has, are compared zero-extended to 16 bits (log entry 20). -/
def aluCmp (a b : Val) : Option (Bool × Bool) :=
  match valWord a, valWord b with
  | some x, some y => some (decide (x ≠ y), decide (x.toNat < y.toNat))
  | _, _ => none

/-- BAND (R210, R207). -/
def aluBand : Option Bool → Option Bool → Option Bool
  | some c, some b => some (c && b)
  | _, _ => none

/-- BOR (R210, R207). -/
def aluBor : Option Bool → Option Bool → Option Bool
  | some c, some b => some (c || b)
  | _, _ => none

/-- BNOT (R210, R207). -/
def aluBnot : Option Bool → Option Bool
  | some c => some (!c)
  | none => none

end Sys2Proof.Machine
end

