-- ==== Sys2Proof/Machine/Operands.lean ====
section
/-! DEFINITION. The operations every operand exposes (R145 to R160): get, set, address, the dereference predicate,
and the results without an emulator (R158). -/

namespace Sys2Proof.Machine

/-- What an operand needs of the Opcode being executed (R145): its address, its length, its segment tag. -/
structure Ctx where
  address : Word
  length : Nat
  seg : SegTag
  deriving DecidableEq, Repr

/-- The address of the next instruction, the base of every PC-relative computation (R152). -/
def Ctx.next (x : Ctx) : Word := x.address + BitVec.ofNat 16 x.length

/-- The target of a relative operand (R151). -/
def Ctx.relTarget (x : Ctx) (d : Int) : Word := x.next + BitVec.ofInt 16 d

/-- The byte a bit selector selects (R150). -/
def bitByte (k : Block) (base : Byte) : Nat :=
  if k.cfg.sfrThreshold ≤ base.toNat then base.toNat else k.cfg.bitAreaBase + base.toNat / 8

/-- Read the byte at a data address; an `UNDEF` address reads `UNDEF` (R72). -/
def getAt (k : Block) (x : Ctx) (kind : AccessKind) (a : Option Word) (s : State) : Except Fault Val :=
  match a with
  | none => .ok .undef
  | some a => do
    let c ← memRead k (sel k x.seg kind a.toNat) a.toNat s
    return Val.ofCell c

/-- Write the byte at a data address; an `UNDEF` address raises UndefinedAddress (R72). -/
def setAt (k : Block) (x : Ctx) (pos : Nat) (kind : AccessKind) (a : Option Word) (v : Val) (s : State) :
    Except Fault State :=
  match a with
  | none => .error (.undefinedAddress (.operand pos))
  | some a => memWrite k (sel k x.seg kind a.toNat) a.toNat (valCell v) s

/-- The address in a pointer register (R154). -/
def pointer (k : Block) (idx : Nat) (s : State) : Except Fault (Option Word) := do
  let p ← regGet k idx s
  return valWord p

/-- The address of an accumulator-indexed operand (R155): the accumulator first, then the base, which for PC is the
address of the next instruction. -/
def indexedAddress (k : Block) (x : Ctx) (baseIdx : Nat) (s : State) : Except Fault (Option Word) := do
  let a ← regGet k k.cfg.accReg s
  let b ← if baseIdx = k.cfg.pcReg then .ok (some x.next) else pointer k baseIdx s
  match valWord a, b with
  | some a, some b => return some (a + b)
  | _, _ => return none

/-- `get(op)` (R145). -/
def getOp (k : Block) (x : Ctx) (op : Operand) (s : State) : Except Fault Val :=
  match op with
  | .reg idx => regGet k idx s
  | .imm8 v => .ok (.byte v)
  | .imm16 v => .ok (.word v)
  | .dir a => getAt k x .direct (some (a.zeroExtend 16)) s
  | .ind idx => do
    let p ← pointer k idx s
    getAt k x .indirect p s
  | .bit base b neg => do
    let a := bitByte k base
    let v ← memReadBit k (sel k x.seg .bit a) a b.toNat s
    return Val.ofBit (v.map (· ^^ neg))
  | .rel d => .ok (.word (x.relTarget d))
  | .abs t => .ok (.word t)
  | .idx baseIdx => do
    let a ← indexedAddress k x baseIdx s
    getAt k x .indexed a s

/-- `set(op, v)` for the operand at position `pos` (R145, R146); absent for the read-only variants, where it is a
table error. -/
def setOp (k : Block) (x : Ctx) (pos : Nat) (op : Operand) (v : Val) (s : State) : Except Fault State :=
  match op with
  | .reg idx => regSet k idx v s
  | .dir a => setAt k x pos .direct (some (a.zeroExtend 16)) v s
  | .ind idx => do
    let p ← pointer k idx s
    setAt k x pos .indirect p v s
  | .bit base b false =>
    memWriteBit k (sel k x.seg .bit (bitByte k base)) (bitByte k base) b.toNat (valBit v) s
  | .bit _ _ true | .imm8 _ | .imm16 _ | .rel _ | .abs _ | .idx _ => .error (.malformedTable (.operand pos))

/-- `addr(op)` (R145); absent for the variants that do not dereference memory, where it is a table error. -/
def addrOp (k : Block) (x : Ctx) (pos : Nat) (op : Operand) (s : State) : Except Fault (Option Word) :=
  match op with
  | .dir a => .ok (some (a.zeroExtend 16))
  | .ind idx => pointer k idx s
  | .bit base _ _ => .ok (some (BitVec.ofNat 16 (bitByte k base)))
  | .idx baseIdx => indexedAddress k x baseIdx s
  | .reg _ | .imm8 _ | .imm16 _ | .rel _ | .abs _ => .error (.malformedTable (.operand pos))

/-- `is_deref` (R157). -/
def isDeref : Operand → Bool
  | .dir _ | .ind _ | .bit _ _ _ | .idx _ => true
  | .reg _ | .imm8 _ | .imm16 _ | .rel _ | .abs _ => false

/-- `get` with no emulator supplied (R158). -/
def getStatic (x : Ctx) : Operand → Option Val
  | .imm8 v => some (.byte v)
  | .imm16 v => some (.word v)
  | .rel d => some (.word (x.relTarget d))
  | .abs t => some (.word t)
  | .reg _ | .dir _ | .ind _ | .bit _ _ _ | .idx _ => none

/-- `addr` with no emulator supplied (R158). -/
def addrStatic (k : Block) : Operand → Option Word
  | .dir a => some (a.zeroExtend 16)
  | .bit base _ _ => some (BitVec.ofNat 16 (bitByte k base))
  | .ind _ | .idx _ | .reg _ | .imm8 _ | .imm16 _ | .rel _ | .abs _ => none

/-- The width of an operand's value in bits (R159). -/
def operandWidth (c : Cfg) : Operand → Nat
  | .reg idx => 8 * ((c.registers[idx]?).map RegDesc.widthBytes).getD 0
  | .imm8 _ | .dir _ | .ind _ | .idx _ => 8
  | .bit _ _ _ => 1
  | .imm16 _ | .rel _ | .abs _ => 16

end Sys2Proof.Machine
end

