-- ==== Sys2Proof/Machine/Run.lean ====
section
/-! DEFINITION. How a handler runs (R192 to R194): its result, the write of the program counter after it, and the
run of one form at the program counter. The shared ends of the branch and carry handlers stand here too. -/

namespace Sys2Proof.Machine

/-- What a handler ends in: an error, or the state after its effects with what it did to control flow. -/
abbrev Handled := Except Fault (State × Flow)

/-- A handler that executed no `pc <- t` (R193). -/
def fall (r : Except Fault State) : Handled :=
  match r with
  | .ok s => .ok (s, .next)
  | .error e => .error e

/-- The write of the program counter after the handler (R193): the explicit target, or the next instruction. -/
def finish (k : Block) (x : Ctx) (r : State × Flow) : Except Fault State :=
  match r.2 with
  | .next => setPc k (some x.next) r.1
  | .goto t => setPc k t r.1

/-- The `execute` transaction once the handler is known (R192 to R194). -/
def transact (k : Block) (x : Ctx) (f : Ctx → State → Handled) (s : State) : Except Fault State :=
  match f x s with
  | .ok r => finish k x r
  | .error e => .error e

/-- The context of an instruction of this iid and length at this address (R145, R192). -/
def ctxOf (k : Block) (h : Iid) (len : Nat) (va : Word) : Ctx := ⟨va, len, k.cfg.segTag h.num⟩

/-- One form of REF at the program counter. The spec gives an Opcode its address (R47); here it is PC, as in `step`
(R190), and an `UNDEF` PC is the error `step` gives it (log entry 3). -/
def runForm (h : Iid) (len : Nat) (f : Ctx → State → Handled) (s : State) : Host.Outcome State Fault Refusal :=
  match s.pc with
  | none => .fault (.undefinedFetch none)
  | some va => settle (transact ref (ctxOf ref h len va) f s)

/-- `pc <- get(op)` (R352). -/
def jumpTo (k : Block) (x : Ctx) (op : Operand) (s : State) : Handled := do
  let t ← getOp k x op s
  return (s, .goto (valWord t))

/-- The branch decision (R218): an undefined condition makes PC `UNDEF`, a true one takes the target operand, a false
one goes on. -/
def branch (k : Block) (x : Ctx) (cond : Option Bool) (op : Operand) (s : State) : Handled :=
  match cond with
  | none => .ok (s, .goto none)
  | some true => jumpTo k x op s
  | some false => .ok (s, .next)

/-- Whether a value is zero; `none` for `UNDEF`. -/
def isZeroVal (v : Val) : Option Bool := (valWord v).map (· == 0)

/-- The flag write of the handlers that rewrite the carry: P is the parity of the accumulator (R205). -/
def writeCarry (k : Block) (c : Option Bool) (s : State) : Except Fault State := do
  let a ← regGet k k.cfg.accReg s
  setFlags k { c := some c, p := some (parityOf a) } s

end Sys2Proof.Machine
end

