-- ==== Sys2Proof/Machine/Arith.lean ====
section
/-! DEFINITION. The arithmetic and logic instructions (R260 to R310): the handler of each iid, over
any block and operands, and the meaning of each form of REF. -/

namespace Sys2Proof.Machine

/-- The result written to op0 and then one flag write (R208). -/
def storeResult (k : Block) (x : Ctx) (op0 : Operand) (r : Val × FlagWrite) (s : State) : Handled := do
  let s ← setOp k x 0 op0 r.1 s
  fall (setFlags k r.2 s)

/-! ## add -/

/-- The handler of iid `add` (R260). -/
def handleAdd (k : Block) (x : Ctx) (op0 op1 : Operand) (s : State) : Handled := do
  let a ← getOp k x op0 s
  let b ← getOp k x op1 s
  storeResult k x op0 (arith aluAdd a b (some false)) s

/-- `add A, #imm8` (R261). -/
def execAddAImm (imm : Byte) (s : State) : Host.Outcome State Fault Refusal :=
  runForm .add 2 (fun x => handleAdd ref x (.reg 8) (.imm8 imm)) s

/-- `add A, direct` (R262). -/
def execAddADir (a : Byte) (s : State) : Host.Outcome State Fault Refusal :=
  runForm .add 2 (fun x => handleAdd ref x (.reg 8) (.dir a)) s

/-- `add A, @Ri` (R263). -/
def execAddAInd (i : Fin 2) (s : State) : Host.Outcome State Fault Refusal :=
  runForm .add 1 (fun x => handleAdd ref x (.reg 8) (.ind i.val)) s

/-- `add A, Rn` (R264). -/
def execAddARn (n : Fin 8) (s : State) : Host.Outcome State Fault Refusal :=
  runForm .add 1 (fun x => handleAdd ref x (.reg 8) (.reg n.val)) s

/-! ## addc -/

/-- The handler of iid `addc` (R265). -/
def handleAddc (k : Block) (x : Ctx) (op0 op1 : Operand) (s : State) : Handled := do
  let a ← getOp k x op0 s
  let b ← getOp k x op1 s
  let c ← readFlag k .c s
  storeResult k x op0 (arith aluAdd a b c) s

/-- `addc A, #imm8` (R266). -/
def execAddcAImm (imm : Byte) (s : State) : Host.Outcome State Fault Refusal :=
  runForm .addc 2 (fun x => handleAddc ref x (.reg 8) (.imm8 imm)) s

/-- `addc A, direct` (R267). -/
def execAddcADir (a : Byte) (s : State) : Host.Outcome State Fault Refusal :=
  runForm .addc 2 (fun x => handleAddc ref x (.reg 8) (.dir a)) s

/-- `addc A, @Ri` (R268). -/
def execAddcAInd (i : Fin 2) (s : State) : Host.Outcome State Fault Refusal :=
  runForm .addc 1 (fun x => handleAddc ref x (.reg 8) (.ind i.val)) s

/-- `addc A, Rn` (R269). -/
def execAddcARn (n : Fin 8) (s : State) : Host.Outcome State Fault Refusal :=
  runForm .addc 1 (fun x => handleAddc ref x (.reg 8) (.reg n.val)) s

/-! ## subb -/

/-- The handler of iid `subb` (R270). -/
def handleSubb (k : Block) (x : Ctx) (op0 op1 : Operand) (s : State) : Handled := do
  let a ← getOp k x op0 s
  let b ← getOp k x op1 s
  let c ← readFlag k .c s
  storeResult k x op0 (arith aluSub a b c) s

/-- `subb A, #imm8` (R271). -/
def execSubbAImm (imm : Byte) (s : State) : Host.Outcome State Fault Refusal :=
  runForm .subb 2 (fun x => handleSubb ref x (.reg 8) (.imm8 imm)) s

/-- `subb A, direct` (R272). -/
def execSubbADir (a : Byte) (s : State) : Host.Outcome State Fault Refusal :=
  runForm .subb 2 (fun x => handleSubb ref x (.reg 8) (.dir a)) s

/-- `subb A, @Ri` (R273). -/
def execSubbAInd (i : Fin 2) (s : State) : Host.Outcome State Fault Refusal :=
  runForm .subb 1 (fun x => handleSubb ref x (.reg 8) (.ind i.val)) s

/-- `subb A, Rn` (R274). -/
def execSubbARn (n : Fin 8) (s : State) : Host.Outcome State Fault Refusal :=
  runForm .subb 1 (fun x => handleSubb ref x (.reg 8) (.reg n.val)) s

/-! ## inc -/

/-- The handler of iid `inc` (R275). -/
def handleInc (k : Block) (x : Ctx) (op0 : Operand) (s : State) : Handled := do
  let v ← getOp k x op0 s
  fall (setOp k x 0 op0 (aluInc v) s)

/-- `inc A` (R276). -/
def execIncA (s : State) : Host.Outcome State Fault Refusal :=
  runForm .inc 1 (fun x => handleInc ref x (.reg 8)) s

/-- `inc direct` (R277). -/
def execIncDir (a : Byte) (s : State) : Host.Outcome State Fault Refusal :=
  runForm .inc 2 (fun x => handleInc ref x (.dir a)) s

/-- `inc @Ri` (R278). -/
def execIncInd (i : Fin 2) (s : State) : Host.Outcome State Fault Refusal :=
  runForm .inc 1 (fun x => handleInc ref x (.ind i.val)) s

/-- `inc Rn` (R279). -/
def execIncRn (n : Fin 8) (s : State) : Host.Outcome State Fault Refusal :=
  runForm .inc 1 (fun x => handleInc ref x (.reg n.val)) s

/-- `inc DPTR` (R280). -/
def execIncDptr (s : State) : Host.Outcome State Fault Refusal :=
  runForm .inc 1 (fun x => handleInc ref x (.reg 11)) s

/-! ## dec -/

/-- The handler of iid `dec` (R281). -/
def handleDec (k : Block) (x : Ctx) (op0 : Operand) (s : State) : Handled := do
  let v ← getOp k x op0 s
  fall (setOp k x 0 op0 (aluDec v) s)

/-- `dec A` (R282). -/
def execDecA (s : State) : Host.Outcome State Fault Refusal :=
  runForm .dec 1 (fun x => handleDec ref x (.reg 8)) s

/-- `dec direct` (R283). -/
def execDecDir (a : Byte) (s : State) : Host.Outcome State Fault Refusal :=
  runForm .dec 2 (fun x => handleDec ref x (.dir a)) s

/-- `dec @Ri` (R284). -/
def execDecInd (i : Fin 2) (s : State) : Host.Outcome State Fault Refusal :=
  runForm .dec 1 (fun x => handleDec ref x (.ind i.val)) s

/-- `dec Rn` (R285). -/
def execDecRn (n : Fin 8) (s : State) : Host.Outcome State Fault Refusal :=
  runForm .dec 1 (fun x => handleDec ref x (.reg n.val)) s

/-! ## anl -/

/-- The handler of iid `anl` (R286). -/
def handleAnl (k : Block) (x : Ctx) (op0 op1 : Operand) (s : State) : Handled := do
  let a ← getOp k x op0 s
  let b ← getOp k x op1 s
  storeResult k x op0 (logic (fun _ u v => u &&& v) a b) s

/-- `anl direct, A` (R291). -/
def execAnlDirA (a : Byte) (s : State) : Host.Outcome State Fault Refusal :=
  runForm .anl 2 (fun x => handleAnl ref x (.dir a) (.reg 8)) s

/-- `anl direct, #imm8` (R292). -/
def execAnlDirImm (a : Byte) (imm : Byte) (s : State) : Host.Outcome State Fault Refusal :=
  runForm .anl 3 (fun x => handleAnl ref x (.dir a) (.imm8 imm)) s

/-- `anl A, #imm8` (R287). -/
def execAnlAImm (imm : Byte) (s : State) : Host.Outcome State Fault Refusal :=
  runForm .anl 2 (fun x => handleAnl ref x (.reg 8) (.imm8 imm)) s

/-- `anl A, direct` (R288). -/
def execAnlADir (a : Byte) (s : State) : Host.Outcome State Fault Refusal :=
  runForm .anl 2 (fun x => handleAnl ref x (.reg 8) (.dir a)) s

/-- `anl A, @Ri` (R289). -/
def execAnlAInd (i : Fin 2) (s : State) : Host.Outcome State Fault Refusal :=
  runForm .anl 1 (fun x => handleAnl ref x (.reg 8) (.ind i.val)) s

/-- `anl A, Rn` (R290). -/
def execAnlARn (n : Fin 8) (s : State) : Host.Outcome State Fault Refusal :=
  runForm .anl 1 (fun x => handleAnl ref x (.reg 8) (.reg n.val)) s

/-! ## orl -/

/-- The handler of iid `orl` (R293). -/
def handleOrl (k : Block) (x : Ctx) (op0 op1 : Operand) (s : State) : Handled := do
  let a ← getOp k x op0 s
  let b ← getOp k x op1 s
  storeResult k x op0 (logic (fun _ u v => u ||| v) a b) s

/-- `orl direct, A` (R298). -/
def execOrlDirA (a : Byte) (s : State) : Host.Outcome State Fault Refusal :=
  runForm .orl 2 (fun x => handleOrl ref x (.dir a) (.reg 8)) s

/-- `orl direct, #imm8` (R299). -/
def execOrlDirImm (a : Byte) (imm : Byte) (s : State) : Host.Outcome State Fault Refusal :=
  runForm .orl 3 (fun x => handleOrl ref x (.dir a) (.imm8 imm)) s

/-- `orl A, #imm8` (R294). -/
def execOrlAImm (imm : Byte) (s : State) : Host.Outcome State Fault Refusal :=
  runForm .orl 2 (fun x => handleOrl ref x (.reg 8) (.imm8 imm)) s

/-- `orl A, direct` (R295). -/
def execOrlADir (a : Byte) (s : State) : Host.Outcome State Fault Refusal :=
  runForm .orl 2 (fun x => handleOrl ref x (.reg 8) (.dir a)) s

/-- `orl A, @Ri` (R296). -/
def execOrlAInd (i : Fin 2) (s : State) : Host.Outcome State Fault Refusal :=
  runForm .orl 1 (fun x => handleOrl ref x (.reg 8) (.ind i.val)) s

/-- `orl A, Rn` (R297). -/
def execOrlARn (n : Fin 8) (s : State) : Host.Outcome State Fault Refusal :=
  runForm .orl 1 (fun x => handleOrl ref x (.reg 8) (.reg n.val)) s

/-! ## xrl -/

/-- The handler of iid `xrl` (R300). -/
def handleXrl (k : Block) (x : Ctx) (op0 op1 : Operand) (s : State) : Handled := do
  let a ← getOp k x op0 s
  let b ← getOp k x op1 s
  storeResult k x op0 (logic (fun _ u v => u ^^^ v) a b) s

/-- `xrl direct, A` (R305). -/
def execXrlDirA (a : Byte) (s : State) : Host.Outcome State Fault Refusal :=
  runForm .xrl 2 (fun x => handleXrl ref x (.dir a) (.reg 8)) s

/-- `xrl direct, #imm8` (R306). -/
def execXrlDirImm (a : Byte) (imm : Byte) (s : State) : Host.Outcome State Fault Refusal :=
  runForm .xrl 3 (fun x => handleXrl ref x (.dir a) (.imm8 imm)) s

/-- `xrl A, #imm8` (R301). -/
def execXrlAImm (imm : Byte) (s : State) : Host.Outcome State Fault Refusal :=
  runForm .xrl 2 (fun x => handleXrl ref x (.reg 8) (.imm8 imm)) s

/-- `xrl A, direct` (R302). -/
def execXrlADir (a : Byte) (s : State) : Host.Outcome State Fault Refusal :=
  runForm .xrl 2 (fun x => handleXrl ref x (.reg 8) (.dir a)) s

/-- `xrl A, @Ri` (R303). -/
def execXrlAInd (i : Fin 2) (s : State) : Host.Outcome State Fault Refusal :=
  runForm .xrl 1 (fun x => handleXrl ref x (.reg 8) (.ind i.val)) s

/-- `xrl A, Rn` (R304). -/
def execXrlARn (n : Fin 8) (s : State) : Host.Outcome State Fault Refusal :=
  runForm .xrl 1 (fun x => handleXrl ref x (.reg 8) (.reg n.val)) s

/-! ## clrA -/

/-- The handler of iid `clrA` (R307). -/
def handleClrA (k : Block) (x : Ctx) (op0 : Operand) (s : State) : Handled :=
  storeResult k x op0 (.byte 0, { p := some (some (parity (0 : Byte))) }) s

/-- `clr A` (R308). -/
def execClrA (s : State) : Host.Outcome State Fault Refusal :=
  runForm .clrA 1 (fun x => handleClrA ref x (.reg 8)) s

/-! ## cplA -/

/-- The handler of iid `cplA` (R309). -/
def handleCplA (k : Block) (x : Ctx) (op0 : Operand) (s : State) : Handled := do
  let a ← getOp k x op0 s
  storeResult k x op0 (aluNot a, { p := some (parityOf (aluNot a)) }) s

/-- `cpl A` (R310). -/
def execCplA (s : State) : Host.Outcome State Fault Refusal :=
  runForm .cplA 1 (fun x => handleCplA ref x (.reg 8)) s

end Sys2Proof.Machine
end

