-- ==== Sys2Proof/Machine/Bits.lean ====
section
/-! DEFINITION. The bit and carry instructions (R320 to R341): the handler of each iid, over
any block and operands, and the meaning of each form of REF. -/

namespace Sys2Proof.Machine

/-! ## clrC -/

/-- The handler of iid `clrC` (R320). -/
def handleClrC (k : Block) (s : State) : Handled :=
  fall (writeCarry k (some false) s)

/-- `clr C` (R321). -/
def execClrC (s : State) : Host.Outcome State Fault Refusal :=
  runForm .clrC 1 (fun _ => handleClrC ref) s

/-! ## setbC -/

/-- The handler of iid `setbC` (R322). -/
def handleSetbC (k : Block) (s : State) : Handled :=
  fall (writeCarry k (some true) s)

/-- `setb C` (R323). -/
def execSetbC (s : State) : Host.Outcome State Fault Refusal :=
  runForm .setbC 1 (fun _ => handleSetbC ref) s

/-! ## cplC -/

/-- The handler of iid `cplC` (R324). -/
def handleCplC (k : Block) (s : State) : Handled := do
  let c ← readFlag k .c s
  fall (writeCarry k (aluBnot c) s)

/-- `cpl C` (R325). -/
def execCplC (s : State) : Host.Outcome State Fault Refusal :=
  runForm .cplC 1 (fun _ => handleCplC ref) s

/-! ## clrB -/

/-- The handler of iid `clrB` (R326). -/
def handleClrB (k : Block) (x : Ctx) (op0 : Operand) (s : State) : Handled :=
  fall (setOp k x 0 op0 (.bit false) s)

/-- `clr bit` (R327). -/
def execClrBit (b : Byte) (s : State) : Host.Outcome State Fault Refusal :=
  runForm .clrB 2 (fun x => handleClrB ref x (Operand.ofBitaddr b false)) s

/-! ## setbB -/

/-- The handler of iid `setbB` (R328). -/
def handleSetbB (k : Block) (x : Ctx) (op0 : Operand) (s : State) : Handled :=
  fall (setOp k x 0 op0 (.bit true) s)

/-- `setb bit` (R329). -/
def execSetbBit (b : Byte) (s : State) : Host.Outcome State Fault Refusal :=
  runForm .setbB 2 (fun x => handleSetbB ref x (Operand.ofBitaddr b false)) s

/-! ## cplB -/

/-- The handler of iid `cplB` (R330). A host-built operand that is not a bit
gives its bit 0 (log entry 18). -/
def handleCplB (k : Block) (x : Ctx) (op0 : Operand) (s : State) : Handled := do
  let v ← getOp k x op0 s
  fall (setOp k x 0 op0 (Val.ofBit (aluBnot (valBit v))) s)

/-- `cpl bit` (R331). -/
def execCplBit (b : Byte) (s : State) : Host.Outcome State Fault Refusal :=
  runForm .cplB 2 (fun x => handleCplB ref x (Operand.ofBitaddr b false)) s

/-! ## movCB -/

/-- The handler of iid `movCB` (R332). A host-built operand that is not a bit
gives its bit 0 (log entry 18). -/
def handleMovCB (k : Block) (x : Ctx) (op0 : Operand) (s : State) : Handled := do
  let b ← getOp k x op0 s
  fall (writeCarry k (valBit b) s)

/-- `mov C, bit` (R333). -/
def execMovCBit (b : Byte) (s : State) : Host.Outcome State Fault Refusal :=
  runForm .movCB 2 (fun x => handleMovCB ref x (Operand.ofBitaddr b false)) s

/-! ## movBC -/

/-- The handler of iid `movBC` (R334). -/
def handleMovBC (k : Block) (x : Ctx) (op0 : Operand) (s : State) : Handled := do
  let c ← readFlag k .c s
  fall (setOp k x 0 op0 (Val.ofBit c) s)

/-- `mov bit, C` (R335). -/
def execMovBitC (b : Byte) (s : State) : Host.Outcome State Fault Refusal :=
  runForm .movBC 2 (fun x => handleMovBC ref x (Operand.ofBitaddr b false)) s

/-! ## anlC -/

/-- The handler of iid `anlC` (R336). A host-built operand that is not a bit
gives its bit 0 (log entry 18). -/
def handleAnlC (k : Block) (x : Ctx) (op0 : Operand) (s : State) : Handled := do
  let c ← readFlag k .c s
  let b ← getOp k x op0 s
  fall (writeCarry k (aluBand c (valBit b)) s)

/-- `anl C, bit` (R337). -/
def execAnlCBit (b : Byte) (s : State) : Host.Outcome State Fault Refusal :=
  runForm .anlC 2 (fun x => handleAnlC ref x (Operand.ofBitaddr b false)) s

/-- `anl C, /bit` (R338). -/
def execAnlCNbit (b : Byte) (s : State) : Host.Outcome State Fault Refusal :=
  runForm .anlC 2 (fun x => handleAnlC ref x (Operand.ofBitaddr b true)) s

/-! ## orlC -/

/-- The handler of iid `orlC` (R339). A host-built operand that is not a bit
gives its bit 0 (log entry 18). -/
def handleOrlC (k : Block) (x : Ctx) (op0 : Operand) (s : State) : Handled := do
  let c ← readFlag k .c s
  let b ← getOp k x op0 s
  fall (writeCarry k (aluBor c (valBit b)) s)

/-- `orl C, bit` (R340). -/
def execOrlCBit (b : Byte) (s : State) : Host.Outcome State Fault Refusal :=
  runForm .orlC 2 (fun x => handleOrlC ref x (Operand.ofBitaddr b false)) s

/-- `orl C, /bit` (R341). -/
def execOrlCNbit (b : Byte) (s : State) : Host.Outcome State Fault Refusal :=
  runForm .orlC 2 (fun x => handleOrlC ref x (Operand.ofBitaddr b true)) s

end Sys2Proof.Machine
end

