-- ==== Sys2Proof/Machine/Control.lean ====
section
/-! DEFINITION. The control-flow instructions (R350 to R381): the handler of each iid, over
any block and operands, and the meaning of each form of REF. -/

namespace Sys2Proof.Machine

/-- The return address pushed in the order `RET_PUSH_ORDER` gives (R214): low byte first in REF. -/
def pushReturn (k : Block) (ra : Word) (s : State) : Except Fault State :=
  let lo := some (ra.extractLsb' 0 8)
  let hi := some (ra.extractLsb' 8 8)
  if k.cfg.retLowFirst then push k lo s >>= push k hi else push k hi s >>= push k lo

/-- The return address popped in the inverse order (R215); `none` when either byte is `UNDEF` (R218). -/
def popReturn (k : Block) (s : State) : Except Fault (Option Word × State) := do
  let r ← pop k s
  let q ← pop k r.2
  let hi := if k.cfg.retLowFirst then r.1 else q.1
  let lo := if k.cfg.retLowFirst then q.1 else r.1
  match hi, lo with
  | some h, some l => return (some (h ++ l), q.2)
  | _, _ => return (none, q.2)

/-! ## nop -/

/-- The handler of iid `nop` (R350). -/
def handleNop (s : State) : Handled := .ok (s, .next)

/-- `nop` (R351). -/
def execNop (s : State) : Host.Outcome State Fault Refusal :=
  runForm .nop 1 (fun _ => handleNop) s

/-! ## ljmp -/

/-- The handler of iid `ljmp` (R352). -/
def handleLjmp (k : Block) (x : Ctx) (op0 : Operand) (s : State) : Handled :=
  jumpTo k x op0 s

/-- `ljmp addr16` (R353). -/
def execLjmp (t : Word) (s : State) : Host.Outcome State Fault Refusal :=
  runForm .ljmp 3 (fun x => handleLjmp ref x (.abs t)) s

/-! ## sjmp -/

/-- The handler of iid `sjmp` (R354). -/
def handleSjmp (k : Block) (x : Ctx) (op0 : Operand) (s : State) : Handled :=
  jumpTo k x op0 s

/-- `sjmp rel` (R355). -/
def execSjmp (d : Int) (s : State) : Host.Outcome State Fault Refusal :=
  runForm .sjmp 2 (fun x => handleSjmp ref x (.rel d)) s

/-! ## jmpi -/

/-- The handler of iid `jmpi` (R356). -/
def handleJmpi (k : Block) (x : Ctx) (op0 : Operand) (s : State) : Handled := do
  let t ← addrOp k x 0 op0 s
  return (s, .goto t)

/-- `jmp @A+DPTR` (R357). -/
def execJmpADptr (s : State) : Host.Outcome State Fault Refusal :=
  runForm .jmpi 1 (fun x => handleJmpi ref x (.idx 11)) s

/-! ## lcall -/

/-- The handler of iid `lcall` (R358). -/
def handleLcall (k : Block) (x : Ctx) (op0 : Operand) (s : State) : Handled := do
  let t ← getOp k x op0 s
  let s ← pushReturn k x.next s
  return (s, .goto (valWord t))

/-- `lcall addr16` (R359). -/
def execLcall (t : Word) (s : State) : Host.Outcome State Fault Refusal :=
  runForm .lcall 3 (fun x => handleLcall ref x (.abs t)) s

/-! ## ret -/

/-- The handler of iid `ret` (R360). -/
def handleRet (k : Block) (s : State) : Handled := do
  let r ← popReturn k s
  return (r.2, .goto r.1)

/-- `ret` (R361). -/
def execRet (s : State) : Host.Outcome State Fault Refusal :=
  runForm .ret 1 (fun _ => handleRet ref) s

/-! ## jc -/

/-- The handler of iid `jc` (R362). -/
def handleJc (k : Block) (x : Ctx) (op0 : Operand) (s : State) : Handled := do
  let c ← readFlag k .c s
  branch k x c op0 s

/-- `jc rel` (R363). -/
def execJc (d : Int) (s : State) : Host.Outcome State Fault Refusal :=
  runForm .jc 2 (fun x => handleJc ref x (.rel d)) s

/-! ## jnc -/

/-- The handler of iid `jnc` (R364). -/
def handleJnc (k : Block) (x : Ctx) (op0 : Operand) (s : State) : Handled := do
  let c ← readFlag k .c s
  branch k x (aluBnot c) op0 s

/-- `jnc rel` (R365). -/
def execJnc (d : Int) (s : State) : Host.Outcome State Fault Refusal :=
  runForm .jnc 2 (fun x => handleJnc ref x (.rel d)) s

/-! ## jz -/

/-- The handler of iid `jz` (R366). -/
def handleJz (k : Block) (x : Ctx) (op0 : Operand) (s : State) : Handled := do
  let a ← regGet k k.cfg.accReg s
  branch k x (isZeroVal a) op0 s

/-- `jz rel` (R367). -/
def execJz (d : Int) (s : State) : Host.Outcome State Fault Refusal :=
  runForm .jz 2 (fun x => handleJz ref x (.rel d)) s

/-! ## jnz -/

/-- The handler of iid `jnz` (R368). -/
def handleJnz (k : Block) (x : Ctx) (op0 : Operand) (s : State) : Handled := do
  let a ← regGet k k.cfg.accReg s
  branch k x (aluBnot (isZeroVal a)) op0 s

/-- `jnz rel` (R369). -/
def execJnz (d : Int) (s : State) : Host.Outcome State Fault Refusal :=
  runForm .jnz 2 (fun x => handleJnz ref x (.rel d)) s

/-! ## jb -/

/-- The handler of iid `jb` (R370). A host-built operand that is not a bit
gives its bit 0 (log entry 18). -/
def handleJb (k : Block) (x : Ctx) (op0 op1 : Operand) (s : State) : Handled := do
  let b ← getOp k x op0 s
  branch k x (valBit b) op1 s

/-- `jb bit, rel` (R371). -/
def execJb (b : Byte) (d : Int) (s : State) : Host.Outcome State Fault Refusal :=
  runForm .jb 3 (fun x => handleJb ref x (Operand.ofBitaddr b false) (.rel d)) s

/-! ## jnb -/

/-- The handler of iid `jnb` (R372). A host-built operand that is not a bit
gives its bit 0 (log entry 18). -/
def handleJnb (k : Block) (x : Ctx) (op0 op1 : Operand) (s : State) : Handled := do
  let b ← getOp k x op0 s
  branch k x (aluBnot (valBit b)) op1 s

/-- `jnb bit, rel` (R373). -/
def execJnb (b : Byte) (d : Int) (s : State) : Host.Outcome State Fault Refusal :=
  runForm .jnb 3 (fun x => handleJnb ref x (Operand.ofBitaddr b false) (.rel d)) s

/-! ## cjne -/

/-- The handler of iid `cjne` (R374). Operands that are not bytes, which only a host-built Opcode has, are compared
zero-extended to 16 bits (log entry 20). -/
def handleCjne (k : Block) (x : Ctx) (op0 op1 op2 : Operand) (s : State) : Handled := do
  let a ← getOp k x op0 s
  let b ← getOp k x op1 s
  let r := aluCmp a b
  let s ← writeCarry k (r.map Prod.snd) s
  branch k x (r.map Prod.fst) op2 s

/-- `cjne A, #imm8, rel` (R375). -/
def execCjneAImm (imm : Byte) (d : Int) (s : State) : Host.Outcome State Fault Refusal :=
  runForm .cjne 3 (fun x => handleCjne ref x (.reg 8) (.imm8 imm) (.rel d)) s

/-- `cjne A, direct, rel` (R376). -/
def execCjneADir (a : Byte) (d : Int) (s : State) : Host.Outcome State Fault Refusal :=
  runForm .cjne 3 (fun x => handleCjne ref x (.reg 8) (.dir a) (.rel d)) s

/-- `cjne @Ri, #imm8, rel` (R377). -/
def execCjneIndImm (i : Fin 2) (imm : Byte) (d : Int) (s : State) : Host.Outcome State Fault Refusal :=
  runForm .cjne 3 (fun x => handleCjne ref x (.ind i.val) (.imm8 imm) (.rel d)) s

/-- `cjne Rn, #imm8, rel` (R378). -/
def execCjneRnImm (n : Fin 8) (imm : Byte) (d : Int) (s : State) : Host.Outcome State Fault Refusal :=
  runForm .cjne 3 (fun x => handleCjne ref x (.reg n.val) (.imm8 imm) (.rel d)) s

/-! ## djnz -/

/-- The handler of iid `djnz` (R379). A host-built operand of 16 bits is decremented and tested at 16 bits (log entry 14). -/
def handleDjnz (k : Block) (x : Ctx) (op0 op1 : Operand) (s : State) : Handled := do
  let v ← getOp k x op0 s
  let r := aluDec v
  let s ← setOp k x 0 op0 r s
  branch k x (aluBnot (isZeroVal r)) op1 s

/-- `djnz direct, rel` (R380). -/
def execDjnzDir (a : Byte) (d : Int) (s : State) : Host.Outcome State Fault Refusal :=
  runForm .djnz 3 (fun x => handleDjnz ref x (.dir a) (.rel d)) s

/-- `djnz Rn, rel` (R381). -/
def execDjnzRn (n : Fin 8) (d : Int) (s : State) : Host.Outcome State Fault Refusal :=
  runForm .djnz 2 (fun x => handleDjnz ref x (.reg n.val) (.rel d)) s

end Sys2Proof.Machine
end

