-- ==== Sys2Proof/Machine/Data.lean ====
section
/-! DEFINITION. The data transfer instructions (R220 to R251): the handler of each iid, over
any block and operands, and the meaning of each form of REF. -/

namespace Sys2Proof.Machine

/-! ## mov -/

/-- The handler of iid `mov` (R220). -/
def handleMov (k : Block) (x : Ctx) (op0 op1 : Operand) (s : State) : Handled := do
  let v ← getOp k x op1 s
  fall (setOp k x 0 op0 v s)

/-- `mov A, #imm8` (R221). -/
def execMovAImm (imm : Byte) (s : State) : Host.Outcome State Fault Refusal :=
  runForm .mov 2 (fun x => handleMov ref x (.reg 8) (.imm8 imm)) s

/-- `mov direct, #imm8` (R229). -/
def execMovDirImm (a : Byte) (imm : Byte) (s : State) : Host.Outcome State Fault Refusal :=
  runForm .mov 3 (fun x => handleMov ref x (.dir a) (.imm8 imm)) s

/-- `mov @Ri, #imm8` (R233). -/
def execMovIndImm (i : Fin 2) (imm : Byte) (s : State) : Host.Outcome State Fault Refusal :=
  runForm .mov 2 (fun x => handleMov ref x (.ind i.val) (.imm8 imm)) s

/-- `mov Rn, #imm8` (R226). -/
def execMovRnImm (n : Fin 8) (imm : Byte) (s : State) : Host.Outcome State Fault Refusal :=
  runForm .mov 2 (fun x => handleMov ref x (.reg n.val) (.imm8 imm)) s

/-- `mov direct, @Ri` (R231). -/
def execMovDirInd (a : Byte) (i : Fin 2) (s : State) : Host.Outcome State Fault Refusal :=
  runForm .mov 2 (fun x => handleMov ref x (.dir a) (.ind i.val)) s

/-- `mov direct, Rn` (R230). -/
def execMovDirRn (a : Byte) (n : Fin 8) (s : State) : Host.Outcome State Fault Refusal :=
  runForm .mov 2 (fun x => handleMov ref x (.dir a) (.reg n.val)) s

/-- `mov DPTR, #imm16` (R235). -/
def execMovDptrImm (imm : Word) (s : State) : Host.Outcome State Fault Refusal :=
  runForm .mov 3 (fun x => handleMov ref x (.reg 11) (.imm16 imm)) s

/-- `mov @Ri, direct` (R234). -/
def execMovIndDir (i : Fin 2) (a : Byte) (s : State) : Host.Outcome State Fault Refusal :=
  runForm .mov 2 (fun x => handleMov ref x (.ind i.val) (.dir a)) s

/-- `mov Rn, direct` (R227). -/
def execMovRnDir (n : Fin 8) (a : Byte) (s : State) : Host.Outcome State Fault Refusal :=
  runForm .mov 2 (fun x => handleMov ref x (.reg n.val) (.dir a)) s

/-- `mov A, direct` (R222). -/
def execMovADir (a : Byte) (s : State) : Host.Outcome State Fault Refusal :=
  runForm .mov 2 (fun x => handleMov ref x (.reg 8) (.dir a)) s

/-- `mov A, @Ri` (R223). -/
def execMovAInd (i : Fin 2) (s : State) : Host.Outcome State Fault Refusal :=
  runForm .mov 1 (fun x => handleMov ref x (.reg 8) (.ind i.val)) s

/-- `mov A, Rn` (R224). -/
def execMovARn (n : Fin 8) (s : State) : Host.Outcome State Fault Refusal :=
  runForm .mov 1 (fun x => handleMov ref x (.reg 8) (.reg n.val)) s

/-- `mov direct, A` (R228). -/
def execMovDirA (a : Byte) (s : State) : Host.Outcome State Fault Refusal :=
  runForm .mov 2 (fun x => handleMov ref x (.dir a) (.reg 8)) s

/-- `mov @Ri, A` (R232). -/
def execMovIndA (i : Fin 2) (s : State) : Host.Outcome State Fault Refusal :=
  runForm .mov 1 (fun x => handleMov ref x (.ind i.val) (.reg 8)) s

/-- `mov Rn, A` (R225). -/
def execMovRnA (n : Fin 8) (s : State) : Host.Outcome State Fault Refusal :=
  runForm .mov 1 (fun x => handleMov ref x (.reg n.val) (.reg 8)) s

/-! ## movx -/

/-- The handler of iid `movx` (R236). -/
def handleMovx (k : Block) (x : Ctx) (op0 op1 : Operand) (s : State) : Handled := do
  let v ← getOp k x op1 s
  fall (setOp k x 0 op0 v s)

/-- `movx A, @DPTR` (R237). -/
def execMovxADptr (s : State) : Host.Outcome State Fault Refusal :=
  runForm .movx 1 (fun x => handleMovx ref x (.reg 8) (.ind 11)) s

/-- `movx A, @Ri` (R238). -/
def execMovxAInd (i : Fin 2) (s : State) : Host.Outcome State Fault Refusal :=
  runForm .movx 1 (fun x => handleMovx ref x (.reg 8) (.ind i.val)) s

/-- `movx @DPTR, A` (R239). -/
def execMovxDptrA (s : State) : Host.Outcome State Fault Refusal :=
  runForm .movx 1 (fun x => handleMovx ref x (.ind 11) (.reg 8)) s

/-- `movx @Ri, A` (R240). -/
def execMovxIndA (i : Fin 2) (s : State) : Host.Outcome State Fault Refusal :=
  runForm .movx 1 (fun x => handleMovx ref x (.ind i.val) (.reg 8)) s

/-! ## movc -/

/-- The handler of iid `movc` (R241). -/
def handleMovc (k : Block) (x : Ctx) (op0 op1 : Operand) (s : State) : Handled := do
  let v ← getOp k x op1 s
  fall (setOp k x 0 op0 v s)

/-- `movc A, @A+PC` (R243). -/
def execMovcAPc (s : State) : Host.Outcome State Fault Refusal :=
  runForm .movc 1 (fun x => handleMovc ref x (.reg 8) (.idx 12)) s

/-- `movc A, @A+DPTR` (R242). -/
def execMovcADptr (s : State) : Host.Outcome State Fault Refusal :=
  runForm .movc 1 (fun x => handleMovc ref x (.reg 8) (.idx 11)) s

/-! ## push -/

/-- The handler of iid `push` (R244). Of an operand that is not a byte, which only a host-built Opcode has, the low byte
is pushed, or the bit zero-extended (log entry 21). -/
def handlePush (k : Block) (x : Ctx) (op0 : Operand) (s : State) : Handled := do
  let v ← getOp k x op0 s
  fall (push k (valCell v) s)

/-- `push direct` (R245). -/
def execPush (a : Byte) (s : State) : Host.Outcome State Fault Refusal :=
  runForm .push 2 (fun x => handlePush ref x (.dir a)) s

/-! ## pop -/

/-- The handler of iid `pop` (R246). -/
def handlePop (k : Block) (x : Ctx) (op0 : Operand) (s : State) : Handled := do
  let r ← pop k s
  fall (setOp k x 0 op0 (Val.ofCell r.1) r.2)

/-- `pop direct` (R247). -/
def execPop (a : Byte) (s : State) : Host.Outcome State Fault Refusal :=
  runForm .pop 2 (fun x => handlePop ref x (.dir a)) s

/-! ## xch -/

/-- The handler of iid `xch` (R248). -/
def handleXch (k : Block) (x : Ctx) (op0 op1 : Operand) (s : State) : Handled := do
  let a ← getOp k x op0 s
  let b ← getOp k x op1 s
  let s ← setOp k x 0 op0 b s
  fall (setOp k x 1 op1 a s)

/-- `xch A, direct` (R249). -/
def execXchADir (a : Byte) (s : State) : Host.Outcome State Fault Refusal :=
  runForm .xch 2 (fun x => handleXch ref x (.reg 8) (.dir a)) s

/-- `xch A, @Ri` (R250). -/
def execXchAInd (i : Fin 2) (s : State) : Host.Outcome State Fault Refusal :=
  runForm .xch 1 (fun x => handleXch ref x (.reg 8) (.ind i.val)) s

/-- `xch A, Rn` (R251). -/
def execXchARn (n : Fin 8) (s : State) : Host.Outcome State Fault Refusal :=
  runForm .xch 1 (fun x => handleXch ref x (.reg 8) (.reg n.val)) s

end Sys2Proof.Machine
end

