-- ==== Sys2Proof/Machine/Dispatch.lean ====
section
/-! DEFINITION. The dispatch: one arm for each instruction, one call of its meaning. -/

namespace Sys2Proof.Machine

/-- The effect of an instruction at the program counter (R191 to R194). -/
def exec (i : Instr) (s : State) : Host.Outcome State Fault Refusal :=
  match i with
  | .movAImm imm => Sys2Proof.Machine.execMovAImm imm s
  | .movADir a => Sys2Proof.Machine.execMovADir a s
  | .movAInd ri => Sys2Proof.Machine.execMovAInd ri s
  | .movARn n => Sys2Proof.Machine.execMovARn n s
  | .movRnA n => Sys2Proof.Machine.execMovRnA n s
  | .movRnImm n imm => Sys2Proof.Machine.execMovRnImm n imm s
  | .movRnDir n a => Sys2Proof.Machine.execMovRnDir n a s
  | .movDirA a => Sys2Proof.Machine.execMovDirA a s
  | .movDirImm a imm => Sys2Proof.Machine.execMovDirImm a imm s
  | .movDirRn a n => Sys2Proof.Machine.execMovDirRn a n s
  | .movDirInd a ri => Sys2Proof.Machine.execMovDirInd a ri s
  | .movIndA ri => Sys2Proof.Machine.execMovIndA ri s
  | .movIndImm ri imm => Sys2Proof.Machine.execMovIndImm ri imm s
  | .movIndDir ri a => Sys2Proof.Machine.execMovIndDir ri a s
  | .movDptrImm imm => Sys2Proof.Machine.execMovDptrImm imm s
  | .movxADptr => Sys2Proof.Machine.execMovxADptr s
  | .movxAInd ri => Sys2Proof.Machine.execMovxAInd ri s
  | .movxDptrA => Sys2Proof.Machine.execMovxDptrA s
  | .movxIndA ri => Sys2Proof.Machine.execMovxIndA ri s
  | .movcADptr => Sys2Proof.Machine.execMovcADptr s
  | .movcAPc => Sys2Proof.Machine.execMovcAPc s
  | .push a => Sys2Proof.Machine.execPush a s
  | .pop a => Sys2Proof.Machine.execPop a s
  | .xchADir a => Sys2Proof.Machine.execXchADir a s
  | .xchAInd ri => Sys2Proof.Machine.execXchAInd ri s
  | .xchARn n => Sys2Proof.Machine.execXchARn n s
  | .addAImm imm => Sys2Proof.Machine.execAddAImm imm s
  | .addADir a => Sys2Proof.Machine.execAddADir a s
  | .addAInd ri => Sys2Proof.Machine.execAddAInd ri s
  | .addARn n => Sys2Proof.Machine.execAddARn n s
  | .addcAImm imm => Sys2Proof.Machine.execAddcAImm imm s
  | .addcADir a => Sys2Proof.Machine.execAddcADir a s
  | .addcAInd ri => Sys2Proof.Machine.execAddcAInd ri s
  | .addcARn n => Sys2Proof.Machine.execAddcARn n s
  | .subbAImm imm => Sys2Proof.Machine.execSubbAImm imm s
  | .subbADir a => Sys2Proof.Machine.execSubbADir a s
  | .subbAInd ri => Sys2Proof.Machine.execSubbAInd ri s
  | .subbARn n => Sys2Proof.Machine.execSubbARn n s
  | .incA => Sys2Proof.Machine.execIncA s
  | .incDir a => Sys2Proof.Machine.execIncDir a s
  | .incInd ri => Sys2Proof.Machine.execIncInd ri s
  | .incRn n => Sys2Proof.Machine.execIncRn n s
  | .incDptr => Sys2Proof.Machine.execIncDptr s
  | .decA => Sys2Proof.Machine.execDecA s
  | .decDir a => Sys2Proof.Machine.execDecDir a s
  | .decInd ri => Sys2Proof.Machine.execDecInd ri s
  | .decRn n => Sys2Proof.Machine.execDecRn n s
  | .anlAImm imm => Sys2Proof.Machine.execAnlAImm imm s
  | .anlADir a => Sys2Proof.Machine.execAnlADir a s
  | .anlAInd ri => Sys2Proof.Machine.execAnlAInd ri s
  | .anlARn n => Sys2Proof.Machine.execAnlARn n s
  | .anlDirA a => Sys2Proof.Machine.execAnlDirA a s
  | .anlDirImm a imm => Sys2Proof.Machine.execAnlDirImm a imm s
  | .orlAImm imm => Sys2Proof.Machine.execOrlAImm imm s
  | .orlADir a => Sys2Proof.Machine.execOrlADir a s
  | .orlAInd ri => Sys2Proof.Machine.execOrlAInd ri s
  | .orlARn n => Sys2Proof.Machine.execOrlARn n s
  | .orlDirA a => Sys2Proof.Machine.execOrlDirA a s
  | .orlDirImm a imm => Sys2Proof.Machine.execOrlDirImm a imm s
  | .xrlAImm imm => Sys2Proof.Machine.execXrlAImm imm s
  | .xrlADir a => Sys2Proof.Machine.execXrlADir a s
  | .xrlAInd ri => Sys2Proof.Machine.execXrlAInd ri s
  | .xrlARn n => Sys2Proof.Machine.execXrlARn n s
  | .xrlDirA a => Sys2Proof.Machine.execXrlDirA a s
  | .xrlDirImm a imm => Sys2Proof.Machine.execXrlDirImm a imm s
  | .clrA => Sys2Proof.Machine.execClrA s
  | .cplA => Sys2Proof.Machine.execCplA s
  | .clrC => Sys2Proof.Machine.execClrC s
  | .setbC => Sys2Proof.Machine.execSetbC s
  | .cplC => Sys2Proof.Machine.execCplC s
  | .clrBit b => Sys2Proof.Machine.execClrBit b s
  | .setbBit b => Sys2Proof.Machine.execSetbBit b s
  | .cplBit b => Sys2Proof.Machine.execCplBit b s
  | .movCBit b => Sys2Proof.Machine.execMovCBit b s
  | .movBitC b => Sys2Proof.Machine.execMovBitC b s
  | .anlCBit b => Sys2Proof.Machine.execAnlCBit b s
  | .anlCNbit b => Sys2Proof.Machine.execAnlCNbit b s
  | .orlCBit b => Sys2Proof.Machine.execOrlCBit b s
  | .orlCNbit b => Sys2Proof.Machine.execOrlCNbit b s
  | .nop => Sys2Proof.Machine.execNop s
  | .ljmp t => Sys2Proof.Machine.execLjmp t s
  | .sjmp d => Sys2Proof.Machine.execSjmp d s
  | .jmpADptr => Sys2Proof.Machine.execJmpADptr s
  | .lcall t => Sys2Proof.Machine.execLcall t s
  | .ret => Sys2Proof.Machine.execRet s
  | .jc d => Sys2Proof.Machine.execJc d s
  | .jnc d => Sys2Proof.Machine.execJnc d s
  | .jz d => Sys2Proof.Machine.execJz d s
  | .jnz d => Sys2Proof.Machine.execJnz d s
  | .jb b d => Sys2Proof.Machine.execJb b d s
  | .jnb b d => Sys2Proof.Machine.execJnb b d s
  | .cjneAImm imm d => Sys2Proof.Machine.execCjneAImm imm d s
  | .cjneADir a d => Sys2Proof.Machine.execCjneADir a d s
  | .cjneIndImm ri imm d => Sys2Proof.Machine.execCjneIndImm ri imm d s
  | .cjneRnImm n imm d => Sys2Proof.Machine.execCjneRnImm n imm d s
  | .djnzDir a d => Sys2Proof.Machine.execDjnzDir a d s
  | .djnzRn n d => Sys2Proof.Machine.execDjnzRn n d s

end Sys2Proof.Machine
end

