-- ==== Sys2Proof/Machine/Execute.lean ====
section
/-! DEFINITION. Dispatch of an Opcode to its handler (R191, R192), fetch (R85, R190), and the construction and reset
of a block (R26, R111, R430), over any block. -/

namespace Sys2Proof.Machine

/-! ## Dispatch -/

/-- Give a handler its first operand; an Opcode without one is a table error (log entry 13). -/
def with1 (ops : List Operand) (f : Operand → State → Handled) (s : State) : Handled :=
  match ops with
  | op0 :: _ => f op0 s
  | [] => .error (.malformedTable (.operand 0))

/-- Give a handler its first two operands. -/
def with2 (ops : List Operand) (f : Operand → Operand → State → Handled) (s : State) : Handled :=
  match ops with
  | op0 :: op1 :: _ => f op0 op1 s
  | [_] => .error (.malformedTable (.operand 1))
  | [] => .error (.malformedTable (.operand 0))

/-- Give a handler its first three operands. -/
def with3 (ops : List Operand) (f : Operand → Operand → Operand → State → Handled) (s : State) : Handled :=
  match ops with
  | op0 :: op1 :: op2 :: _ => f op0 op1 op2 s
  | [_, _] => .error (.malformedTable (.operand 2))
  | [_] => .error (.malformedTable (.operand 1))
  | [] => .error (.malformedTable (.operand 0))

/-- `HANDLER` (R192), one handler for each iid. -/
def runHandler (k : Block) (x : Ctx) (h : Iid) (ops : List Operand) : State → Handled :=
  match h with
  | .nop => handleNop
  | .mov => with2 ops (handleMov k x)
  | .movx => with2 ops (handleMovx k x)
  | .movc => with2 ops (handleMovc k x)
  | .push => with1 ops (handlePush k x)
  | .pop => with1 ops (handlePop k x)
  | .xch => with2 ops (handleXch k x)
  | .add => with2 ops (handleAdd k x)
  | .addc => with2 ops (handleAddc k x)
  | .subb => with2 ops (handleSubb k x)
  | .inc => with1 ops (handleInc k x)
  | .dec => with1 ops (handleDec k x)
  | .anl => with2 ops (handleAnl k x)
  | .orl => with2 ops (handleOrl k x)
  | .xrl => with2 ops (handleXrl k x)
  | .clrA => with1 ops (handleClrA k x)
  | .cplA => with1 ops (handleCplA k x)
  | .clrC => handleClrC k
  | .setbC => handleSetbC k
  | .cplC => handleCplC k
  | .clrB => with1 ops (handleClrB k x)
  | .setbB => with1 ops (handleSetbB k x)
  | .cplB => with1 ops (handleCplB k x)
  | .movCB => with1 ops (handleMovCB k x)
  | .movBC => with1 ops (handleMovBC k x)
  | .anlC => with1 ops (handleAnlC k x)
  | .orlC => with1 ops (handleOrlC k x)
  | .ljmp => with1 ops (handleLjmp k x)
  | .sjmp => with1 ops (handleSjmp k x)
  | .jmpi => with1 ops (handleJmpi k x)
  | .lcall => with1 ops (handleLcall k x)
  | .ret => handleRet k
  | .jc => with1 ops (handleJc k x)
  | .jnc => with1 ops (handleJnc k x)
  | .jz => with1 ops (handleJz k x)
  | .jnz => with1 ops (handleJnz k x)
  | .jb => with2 ops (handleJb k x)
  | .jnb => with2 ops (handleJnb k x)
  | .cjne => with3 ops (handleCjne k x)
  | .djnz => with2 ops (handleDjnz k x)

/-- The `execute` transaction (R191 to R194). It reads `opc.address`, never PC. -/
def execute (k : Block) (opc : Opcode) (s : State) : Except Fault State :=
  match Iid.ofNum opc.iid with
  | none => .error (.unsupportedInstruction opc.iid)
  | some h => transact k ⟨opc.address, opc.length, k.cfg.segTag opc.iid⟩ (fun x => runHandler k x h opc.operands) s

/-! ## Fetch and step -/

/-- The error of a decode at an address (R401, R402, R406, R408). -/
def decodeFault (va : Word) : DecodeError → Fault
  | .truncated need pos => .truncatedInstruction need pos
  | .invalid b => .invalidInstruction b (some va)
  | .malformed table b => .malformedTable (.romEntry table b)
  | .undefinedByte j => .undefinedFetch (some (va + BitVec.ofNat 16 j))

/-- The program-memory window as a buffer, its cells read on demand and raw (R85, R190). -/
def codeBuffer (w : Segment) (s : State) : Buffer :=
  ⟨w.size, fun j => s.store.read (w.base + j + w.backingOffset)⟩

/-- Decode at an address, which may lie outside the program-memory window (R190). -/
def fetchAt (k : Block) (pc : Word) (s : State) : Except Fault Opcode :=
  match resolve k SegTag.code.segName with
  | .error e => .error e
  | .ok w =>
    if pc.toNat < w.base then .error (.truncatedInstruction 1 0)
    else match decodeAt k.cfg (codeBuffer w s) (pc.toNat - w.base) pc with
      | .error e => .error (decodeFault pc e)
      | .ok opc => .ok opc

/-- The first half of `step` (R190): the Opcode at PC. -/
def fetchOpcode (k : Block) (s : State) : Except Fault Opcode :=
  match regGet k k.cfg.pcReg s with
  | .error e => .error e
  | .ok v =>
    match valWord v with
    | none => .error (.undefinedFetch none)
    | some pc => fetchAt k pc s

/-- The `step` transaction (R190) of any block. -/
def stepBlock (k : Block) (s : State) : Except Fault State :=
  match fetchOpcode k s with
  | .error e => .error e
  | .ok opc => execute k opc s

/-- The physical offset of a code address in REF (R24). -/
def codeOffset (a : Nat) : Nat := a + 0x10100

/-- Bytes placed from a code address on, as the host's `load` of the CODE segment leaves them (R433). -/
def placeCode (a : Nat) (bytes : List Byte) (s : State) : State :=
  let m := ((List.range bytes.length).zip bytes).foldl (fun m x => m.write (codeOffset (a + x.1)) (some x.2)) s.store
  { s with store := m }

/-- The code address three bytes can be placed at so that `step` fetches them: PC, or 0x0000 when PC is `UNDEF` or so
near the end of the window that the longest instruction does not fit (log entry 8). -/
def fetchSlot (s : State) : Word :=
  match s.pc with
  | some pc => if pc.toNat + 3 ≤ 0x10000 then pc else 0
  | none => 0

/-! ## Construction and reset -/

/-- The first entry of a table, or of the tables its pointers lead to, that breaks R111 or R115, as its table and byte.
`fuel` bounds the opcode bytes: `fixed_len` has two bits (log entry 17). -/
def romDefect (c : Cfg) : Nat → Nat → Option Nat → (Byte → BitVec 80) → Option (Option Nat × Byte)
  | 0, _, id, _ => some (id, 0)
  | fuel + 1, consumed, id, table =>
    ((List.range 256).map (BitVec.ofNat 8)).findSome? fun b =>
      let e := RomEntry.ofWord (table b)
      if e.valid then
        if e.kind then
          match c.subtables e.iid.toNat with
          | some t => romDefect c fuel (consumed + 1) (some e.iid.toNat) t
          | none => some (id, b)
        else if e.ok c consumed then none else some (id, b)
      else none

/-- Whether the descriptor of an index is well formed in a block (R26, R177): a computed register that has external
hooks is in mode `replace`, and one that has none is PC, the only one with built-in hooks (R32, R176). -/
def Block.registerOk (k : Block) (idx : Nat) (d : RegDesc) : Bool :=
  d.WellFormed && (d.storage != .computed || (if k.hooked idx then k.hookMode idx == .replace else idx == k.cfg.pcReg))

/-- The first of the registers with a role (the status register, ACC, SP, PC) that has no descriptor, or the status
register where it is not one `Direct` byte (R183, R408, log entry 10). -/
def Block.roleDefect (k : Block) : Option Nat :=
  let isByte := match k.cfg.registers[k.cfg.statusReg]? with
    | some ⟨_, 1, .direct _, _, _⟩ => true
    | _ => false
  if isByte then [k.cfg.accReg, k.cfg.spReg, k.cfg.pcReg].find? fun i => k.cfg.registers[i]?.isNone
  else some k.cfg.statusReg

/-- What is malformed in a configuration, if anything is (R26, R61, R111, R177, R183, R408). -/
def Block.defect (k : Block) : Option TableDefect :=
  match (List.range k.cfg.registers.length).find? fun i =>
      match k.cfg.registers[i]? with
      | some d => !k.registerOk i d
      | none => true with
  | some i => some (.register i)
  | none =>
    match k.roleDefect with
    | some i => some (.register i)
    | none =>
      match segmentDefect k.cfg.segments with
      | some n => some (.segment n)
      | none => (romDefect k.cfg 3 1 none k.cfg.rom).map fun x => .romEntry x.1 x.2

/-- The cells one descriptor resets (R430): its addresses as written, no bank offset. -/
def resetCells (d : RegDesc) : List (Nat × Cell) :=
  let v := match d.resetValue with
    | some n => fitWidth d.widthBytes (.word (BitVec.ofNat 16 n))
    | none => .undef
  match d.storage, disassemble d.widthBytes v with
  | .direct a, some cs => ((List.range d.widthBytes).map (a + ·)).zip cs
  | .split addrs msbFirst, some cs => addrs.zip (if msbFirst then cs else cs.reverse)
  | _, _ => []

/-- The reset of one descriptor (R430): raw store writes, or PCCELL for PC. -/
def resetReg (k : Block) (s : State) (x : Nat × RegDesc) : State :=
  match x.2.storage with
  | .computed => if x.1 = k.cfg.pcReg then { s with pc := x.2.resetValue.map (BitVec.ofNat 16) } else s
  | .direct _ | .split _ _ =>
    (resetCells x.2).foldl (fun s y =>
      match locate k (sel k .idata .regStorage y.1) y.1 with
      | .ok p => { s with store := s.store.write p y.2 }
      | .error _ => s) s

/-- The `reset` transaction (R430): every cell `UNDEF`, UFLAGS 0, then every descriptor in index order. -/
def resetBlock (k : Block) : State :=
  ((List.range k.cfg.registers.length).zip k.cfg.registers).foldl (resetReg k) ⟨[], none, false⟩

/-- Construction (R26, R111): a malformed configuration is reported, a well-formed block starts in its reset state. -/
def construct (k : Block) : Except Fault State :=
  match k.defect with
  | some d => .error (.malformedTable d)
  | none => .ok (resetBlock k)

end Sys2Proof.Machine
end

