-- ==== Sys2Proof/Machine/Step.lean ====
section
/-! DEFINITION. The `step` transaction of REF (R190), and the placing of one instruction where it fetches. -/

namespace Sys2Proof.Machine

/-- `step` (R190): decode one Opcode at PC, then execute it. The Opcode of a form of R110 goes to that form's meaning;
an Opcode of no form, which the REF ROM does not give, goes to its handler (log entry 11). -/
def step (s : State) : Host.Outcome State Fault Refusal :=
  match fetchOpcode ref s with
  | .error e => .fault e
  | .ok opc =>
    match Instr.ofOpcode opc with
    | some i => exec i s
    | none => settle (execute ref opc s)

/-- The state with an instruction's bytes, numbered as opcode_table.json numbers its bits, where `step` fetches next;
the bytes above `nbits` up to the longest instruction are zero. PC moves only when it must (log entry 8). -/
def State.withFetchWord (s : State) (nbits w : Nat) : State :=
  placeCode (fetchSlot s).toNat [tableByte nbits w 0, tableByte nbits w 1, tableByte nbits w 2]
    { s with pc := some (fetchSlot s) }

end Sys2Proof.Machine
end

