-- ==== Sys2Proof/Machine/Branches.lean ====
section
/-! DEFINITION. Control-flow edges of a decoded instruction (R161 to R166). -/

namespace Sys2Proof.Machine

/-- The bits of `kind` (R50). -/
def kindFallthrough : BitVec 4 := 1

/-- Bit 1 of `kind` (R50). -/
def kindConditional : BitVec 4 := 2

/-- Bit 2 of `kind` (R50). -/
def kindCall : BitVec 4 := 4

/-- Bit 3 of `kind` (R50). -/
def kindDeref : BitVec 4 := 8

/-- CALL (R96). -/
def cfCall (cf : BitVec 4) : Bool := cf.getLsbD 0

/-- BRANCH (R96). -/
def cfBranch (cf : BitVec 4) : Bool := cf.getLsbD 1

/-- COND (R96). -/
def cfCond (cf : BitVec 4) : Bool := cf.getLsbD 2

/-- NOFALL (R96). -/
def cfNoFall (cf : BitVec 4) : Bool := cf.getLsbD 3

/-- The fallthrough edge (R162). -/
def fallEdges (x : Ctx) (cf : BitVec 4) : List Edge :=
  if cfCond cf then [⟨some x.next, kindFallthrough ||| kindConditional⟩]
  else if cfNoFall cf then [] else [⟨some x.next, kindFallthrough⟩]

/-- The kind of the target edge (R164); `none` when the instruction has no target. -/
def targetKind (cf : BitVec 4) : Option (BitVec 4) :=
  let cond := if cfCond cf then kindConditional else 0
  if cfCall cf then some (cond ||| kindCall) else if cfBranch cf then some cond else none

/-- The target edge (R165); `none` when it needs an emulator and none is supplied. `pos` is the operand's position. -/
def targetEdge (k : Block) (x : Ctx) (kind : BitVec 4) (pos : Nat) (op : Operand) (emu : Option State) :
    Except Fault (Option Edge) :=
  match emu with
  | none =>
    .ok (if isDeref op then (addrStatic k op).map fun t => ⟨some t, kind ||| kindDeref⟩
      else (getStatic x op).map fun v => ⟨valWord v, kind⟩)
  | some s =>
    if isDeref op then do
      let t ← addrOp k x pos op s
      return some ⟨t, kind ||| kindDeref⟩
    else do
      let v ← getOp k x op s
      return some ⟨valWord v, kind⟩

/-- `get_branches` (R161 to R166): the fallthrough edge first, the edge to the last operand second. -/
def getBranches (k : Block) (opc : Opcode) (emu : Option State) : Except Fault (List Edge) :=
  let x : Ctx := ⟨opc.address, opc.length, k.cfg.segTag opc.iid⟩
  match opc.operands.getLast?, targetKind opc.flags with
  | some op, some kind => do
    let e ← targetEdge k x kind (opc.operands.length - 1) op emu
    return fallEdges x opc.flags ++ e.toList
  | _, _ => .ok (fallEdges x opc.flags)

end Sys2Proof.Machine
end

