-- ==== Sys2Proof/Machine/Port.lean ====
section
/-! DEFINITION. The host's side: the transactions it may issue (R3), the register and memory ports (R87, R182, R420),
and what the block answers. A transaction is atomic: an error leaves the state as it was (R410). -/

namespace Sys2Proof.Machine

/-- `load` (R87): the segment's name is resolved (R404), then consecutive cells are written, each with its own checks and
the effect of a byte write (R70). -/
def load (k : Block) (n : SegName) (a : Nat) (bytes : List Byte) (s : State) : Except Fault State := do
  let _ ← resolve k n
  ((List.range bytes.length).zip bytes).foldlM (fun s x => memWrite k n (a + x.1) (some x.2) s) s

/-- `peek` (R87, R420): the stored cell, without the overlay. -/
def peek (k : Block) (n : SegName) (a : Nat) (s : State) : Except Fault Cell := do
  let p ← locate k n a
  return s.store.read p

/-- `peek_uflags` (R420). -/
def peekUflags (s : State) : Bool := s.uflags

/-- A transaction request (R3). -/
inductive Request where
  | reset
  | decode (bytes : List Byte) (offset va : Nat)
  | step
  | execute (opc : Opcode)
  /-- With the block's own state as emulator, or with none. -/
  | getBranches (opc : Opcode) (withEmulator : Bool)
  | rfGet (idx : Nat)
  | rfSet (idx : Nat) (v : Val)
  | load (n : SegName) (a : Nat) (bytes : List Byte)
  | peek (n : SegName) (a : Nat)
  | peekUflags
  deriving DecidableEq, Repr

/-- What a transaction answers. -/
inductive Reply where
  | done
  | opcode (opc : Opcode)
  | edges (es : List Edge)
  | value (v : Val)
  | cell (c : Cell)
  | bool (b : Bool)
  deriving DecidableEq, Repr

/-- The error of a `decode` transaction, which has no PC to record (R401); a decode of a byte sequence meets no `UNDEF`. -/
def decodeOnlyFault : DecodeError → Fault
  | .truncated need pos => .truncatedInstruction need pos
  | .invalid b => .invalidInstruction b none
  | .malformed table b => .malformedTable (.romEntry table b)
  | .undefinedByte j => .undefinedFetch (some (BitVec.ofNat 16 j))

/-- A transaction that only changes the state. -/
def settled (s : State) : Except Fault State → State × Except Fault Reply
  | .ok s' => (s', .ok .done)
  | .error e => (s, .error e)

/-- A transaction that only answers. -/
def answered {α : Type} (s : State) (f : α → Reply) : Except Fault α → State × Except Fault Reply
  | .ok a => (s, .ok (f a))
  | .error e => (s, .error e)

/-- The block serves one transaction (R3, R410). -/
def serve (k : Block) (q : Request) (s : State) : State × Except Fault Reply :=
  match q with
  | .reset => (resetBlock k, .ok .done)
  | .decode bytes offset va =>
    match decode k.cfg bytes offset va with
    | .ok opc => (s, .ok (.opcode opc))
    | .error e => (s, .error (decodeOnlyFault e))
  | .step => settled s (stepBlock k s)
  | .execute opc => settled s (execute k opc s)
  | .getBranches opc emu => answered s .edges (getBranches k opc (if emu then some s else none))
  | .rfGet idx => answered s .value (regGet k idx s)
  | .rfSet idx v => settled s (regSet k idx v s)
  | .load n a bytes => settled s (load k n a bytes s)
  | .peek n a => answered s .cell (peek k n a s)
  | .peekUflags => (s, .ok (.bool (peekUflags s)))

end Sys2Proof.Machine
end

