-- ==== Sys2Proof/Safety.lean ====
section
/-! DEFINITION. The terms statements about REF use: the invariant of the state, the registers and data cells of REF
read straight from the store, the operands of the byte forms, and which cells and flags each instruction may write. -/

namespace Sys2Proof.Machine

/-! ## Outcomes -/

/-- The next state of an outcome, if it has one. -/
def nextOf : Host.Outcome State Fault Refusal → Option State
  | .next s => some s
  | .fault _ => none
  | .refused _ => none

/-- The fault of an outcome, if it ends in one. -/
def faultOf : Host.Outcome State Fault Refusal → Option Fault
  | .next _ => none
  | .fault f => some f
  | .refused _ => none

/-! ## The invariant -/

/-- Every listed offset lies in STORE (R24, R45). -/
abbrev Memory.inStore (m : Memory) : Prop := ∀ x ∈ m, x.1 < refStoreSize

/-- The invariant of REF: STORE is canonical and within its size. -/
abbrev State.Inv (s : State) : Prop := s.store.wf ∧ s.store.inStore

/-! ## Registers and data cells of REF -/

/-- The stored status byte (R29). -/
def psw (s : State) : Cell := s.store.read 0xD0

/-- The accumulator (R41). -/
def acc (s : State) : Cell := s.store.read 0xE0

/-- The stack pointer (R36). -/
def stackPtr (s : State) : Cell := s.store.read 0x81

/-- DPTR (R31): bits 15:8 at 0x83, bits 7:0 at 0x82. -/
def dptr (s : State) : Option Word :=
  match s.store.read 0x83, s.store.read 0x82 with
  | some h, some l => some (h ++ l)
  | _, _ => none

/-- A data read of the byte at an IRAM or SFR address, which is its physical offset (R24, R38, R69). -/
def dataCell (a : Nat) (s : State) : Cell := if a = 0xD0 ∧ s.uflags = true then none else s.store.read a

/-- A data write of the byte at an IRAM or SFR address (R40, R70). -/
def putData (a : Nat) (v : Cell) (s : State) : State :=
  { s with store := s.store.write a v, uflags := s.uflags && !(a == 0xD0 && v.isSome) }

/-- The address of working register `n` in the selected bank (R29, R30). -/
def rnAddr (n : Nat) (s : State) : Option Nat := (psw s).map fun b => n + (b &&& 0x18).toNat

/-- Working register `n`: `UNDEF` when its address or its byte is. -/
def rnCell (n : Nat) (s : State) : Cell := (rnAddr n s).bind s.store.read

/-- The byte address of a bit address (R150). -/
def bitAddr (b : Byte) : Nat := if b.toNat < 0x80 then 0x20 + b.toNat / 8 else (b &&& 0xF8).toNat

/-- The bit number of a bit address. -/
def bitNum (b : Byte) : Nat := b.toNat % 8

/-- The physical offset of a MOVX data address under `THRESH_SCOPE` = all (R67); `none` where it is a StoreFault. -/
def xdataOffset (a : Word) : Option Nat :=
  if a.toNat < 0x80 then some (0x100 + a.toNat) else if a.toNat < 0x100 then some a.toNat else none

/-- The physical offset of a MOVC data address under `THRESH_SCOPE` = all (R67); `none` where it is a StoreFault. -/
def codeDataOffset (a : Word) : Option Nat :=
  if a.toNat < 0x80 then some (0x10100 + a.toNat) else if a.toNat < 0x100 then some a.toNat else none

/-- The sum of a base and the accumulator (R155). -/
def accPlus (base : Option Word) (s : State) : Option Word :=
  match acc s, base with
  | some a, some w => some (a.zeroExtend 16 + w)
  | _, _ => none

/-! ## Byte operands of the forms -/

/-- A byte location the forms read or write. -/
inductive ByteLoc where
  | acc
  | dir (a : Byte)
  | ind (i : Fin 2)
  | rn (n : Fin 8)
  deriving DecidableEq, Repr

/-- A byte source: a location or an immediate. -/
inductive ByteSrc where
  | imm (b : Byte)
  | loc (l : ByteLoc)
  deriving DecidableEq, Repr

/-- The physical offset of a location of an IDATA form; `none` when the pointer or the bank is `UNDEF`. -/
def ByteLoc.offset (s : State) : ByteLoc → Option Nat
  | .acc => some 0xE0
  | .dir a => some a.toNat
  | .ind i => (rnCell i.val s).map BitVec.toNat
  | .rn n => rnAddr n.val s

/-- What a read of a location gives (R72: an `UNDEF` address reads `UNDEF`). -/
def ByteLoc.cell (s : State) (l : ByteLoc) : Cell := (l.offset s).bind (dataCell · s)

/-- What a source gives. -/
def ByteSrc.cell (s : State) : ByteSrc → Cell
  | .imm b => some b
  | .loc l => l.cell s

/-- The access an UndefinedAddress of a written location records (R407); `pos` is the operand's position. -/
def ByteLoc.access (pos : Nat) : ByteLoc → AccessId
  | .acc => .register 8
  | .dir _ | .ind _ => .operand pos
  | .rn n => .register n.val

/-- The MOV forms between bytes: destination and source. -/
def movForm : Instr → Option (ByteLoc × ByteSrc)
  | .movAImm imm => some (.acc, .imm imm)
  | .movADir a => some (.acc, .loc (.dir a))
  | .movAInd i => some (.acc, .loc (.ind i))
  | .movARn n => some (.acc, .loc (.rn n))
  | .movRnA n => some (.rn n, .loc .acc)
  | .movRnImm n imm => some (.rn n, .imm imm)
  | .movRnDir n a => some (.rn n, .loc (.dir a))
  | .movDirA a => some (.dir a, .loc .acc)
  | .movDirImm a imm => some (.dir a, .imm imm)
  | .movDirRn a n => some (.dir a, .loc (.rn n))
  | .movDirInd a i => some (.dir a, .loc (.ind i))
  | .movIndA i => some (.ind i, .loc .acc)
  | .movIndImm i imm => some (.ind i, .imm imm)
  | .movIndDir i a => some (.ind i, .loc (.dir a))
  | _ => none

/-- The XCH forms: the location exchanged with A. -/
def xchForm : Instr → Option ByteLoc
  | .xchADir a => some (.dir a)
  | .xchAInd i => some (.ind i)
  | .xchARn n => some (.rn n)
  | _ => none

/-- The arithmetic operations. -/
inductive ArithOp where
  | add | addc | subb
  deriving DecidableEq, Repr

/-- The ADD, ADDC and SUBB forms: operation and source; the destination is A. -/
def arithForm : Instr → Option (ArithOp × ByteSrc)
  | .addAImm imm => some (.add, .imm imm)
  | .addADir a => some (.add, .loc (.dir a))
  | .addAInd i => some (.add, .loc (.ind i))
  | .addARn n => some (.add, .loc (.rn n))
  | .addcAImm imm => some (.addc, .imm imm)
  | .addcADir a => some (.addc, .loc (.dir a))
  | .addcAInd i => some (.addc, .loc (.ind i))
  | .addcARn n => some (.addc, .loc (.rn n))
  | .subbAImm imm => some (.subb, .imm imm)
  | .subbADir a => some (.subb, .loc (.dir a))
  | .subbAInd i => some (.subb, .loc (.ind i))
  | .subbARn n => some (.subb, .loc (.rn n))
  | _ => none

/-- The carry input of an arithmetic operation (R211). -/
def ArithOp.carryIn (s : State) : ArithOp → Option Bool
  | .add => some false
  | .addc | .subb => flag ref .c s

/-- The ALU function of an arithmetic operation (R211). -/
def ArithOp.alu : ArithOp → Byte → Byte → Bool → AluOut 8
  | .add | .addc => aluAdd 8
  | .subb => aluSub 8

/-- Result and flag write of an arithmetic operation on bytes (R207). -/
def ArithOp.apply (op : ArithOp) (a b : Cell) (cin : Option Bool) : Cell × FlagWrite :=
  match a, b, cin with
  | some x, some y, some c => (some (op.alu x y c).r, (op.alu x y c).flags)
  | _, _, _ => (none, undefFlags)

/-- The logic operations. -/
inductive LogicOp where
  | anl | orl | xrl
  deriving DecidableEq, Repr

/-- The bitwise function of a logic operation (R203). -/
def LogicOp.fn : LogicOp → Byte → Byte → Byte
  | .anl, x, y => x &&& y
  | .orl, x, y => x ||| y
  | .xrl, x, y => x ^^^ y

/-- Result and flag write of a logic operation on bytes (R203, R207). -/
def LogicOp.apply (op : LogicOp) (a b : Cell) : Cell × FlagWrite :=
  match a, b with
  | some x, some y => (some (op.fn x y), { p := some (some (parity (op.fn x y))) })
  | _, _ => (none, { p := some none })

/-- The ANL, ORL and XRL byte forms: operation, destination and source. -/
def logicForm : Instr → Option (LogicOp × ByteLoc × ByteSrc)
  | .anlAImm imm => some (.anl, .acc, .imm imm)
  | .anlADir a => some (.anl, .acc, .loc (.dir a))
  | .anlAInd i => some (.anl, .acc, .loc (.ind i))
  | .anlARn n => some (.anl, .acc, .loc (.rn n))
  | .anlDirA a => some (.anl, .dir a, .loc .acc)
  | .anlDirImm a imm => some (.anl, .dir a, .imm imm)
  | .orlAImm imm => some (.orl, .acc, .imm imm)
  | .orlADir a => some (.orl, .acc, .loc (.dir a))
  | .orlAInd i => some (.orl, .acc, .loc (.ind i))
  | .orlARn n => some (.orl, .acc, .loc (.rn n))
  | .orlDirA a => some (.orl, .dir a, .loc .acc)
  | .orlDirImm a imm => some (.orl, .dir a, .imm imm)
  | .xrlAImm imm => some (.xrl, .acc, .imm imm)
  | .xrlADir a => some (.xrl, .acc, .loc (.dir a))
  | .xrlAInd i => some (.xrl, .acc, .loc (.ind i))
  | .xrlARn n => some (.xrl, .acc, .loc (.rn n))
  | .xrlDirA a => some (.xrl, .dir a, .loc .acc)
  | .xrlDirImm a imm => some (.xrl, .dir a, .imm imm)
  | _ => none

/-- The INC and DEC byte forms: location and what is added (R206). -/
def stepForm : Instr → Option (ByteLoc × Byte)
  | .incA => some (.acc, 1)
  | .incDir a => some (.dir a, 1)
  | .incInd i => some (.ind i, 1)
  | .incRn n => some (.rn n, 1)
  | .decA => some (.acc, -1)
  | .decDir a => some (.dir a, -1)
  | .decInd i => some (.ind i, -1)
  | .decRn n => some (.rn n, -1)
  | _ => none

/-- The DJNZ forms: location and displacement. -/
def djnzForm : Instr → Option (ByteLoc × Int)
  | .djnzDir a d => some (.dir a, d)
  | .djnzRn n d => some (.rn n, d)
  | _ => none

/-- The CJNE forms: the two compared operands and the displacement. -/
def cjneForm : Instr → Option (ByteLoc × ByteSrc × Int)
  | .cjneAImm imm d => some (.acc, .imm imm, d)
  | .cjneADir a d => some (.acc, .loc (.dir a), d)
  | .cjneIndImm i imm d => some (.ind i, .imm imm, d)
  | .cjneRnImm n imm d => some (.rn n, .imm imm, d)
  | _ => none

/-- What a bit operand reads (R71, R150). -/
def bitCell (b : Byte) (s : State) : Option Bool := readBit ref (bitAddr b) (bitNum b) s

/-- The new carry of the instructions that rewrite it and nothing else but P (R211). -/
def carryForm (s : State) : Instr → Option (Option Bool)
  | .clrC => some (some false)
  | .setbC => some (some true)
  | .cplC => some (aluBnot (flag ref .c s))
  | .movCBit b => some (bitCell b s)
  | .anlCBit b => some (aluBand (flag ref .c s) (bitCell b s))
  | .anlCNbit b => some (aluBand (flag ref .c s) (aluBnot (bitCell b s)))
  | .orlCBit b => some (aluBor (flag ref .c s) (bitCell b s))
  | .orlCNbit b => some (aluBor (flag ref .c s) (aluBnot (bitCell b s)))
  | _ => none

/-- The instructions that write one bit: its address and its new value (R211). -/
def bitForm (s : State) : Instr → Option (Byte × Option Bool)
  | .clrBit b => some (b, some false)
  | .setbBit b => some (b, some true)
  | .cplBit b => some (b, aluBnot (bitCell b s))
  | .movBitC b => some (b, flag ref .c s)
  | _ => none

/-- The conditional branches that write nothing: condition and displacement (R211). -/
def branchForm (s : State) : Instr → Option (Option Bool × Int)
  | .jc d => some (flag ref .c s, d)
  | .jnc d => some (aluBnot (flag ref .c s), d)
  | .jz d => some ((acc s).map (· == 0), d)
  | .jnz d => some ((acc s).map (· != 0), d)
  | .jb b d => some (bitCell b s, d)
  | .jnb b d => some (aluBnot (bitCell b s), d)
  | _ => none

/-! ## Program counter and stack -/

/-- The address of the instruction after `i` at `va` (R193). -/
def nextPc (i : Instr) (va : Word) : Word := va + BitVec.ofNat 16 i.length

/-- PC after a branch decision (R218). -/
def branchPc (i : Instr) (va : Word) (cond : Option Bool) (d : Int) : Option Word :=
  cond.map fun c => if c then nextPc i va + BitVec.ofInt 16 d else nextPc i va

/-- The state after a push with the stack pointer at `p` (R212). -/
def pushed (p : Byte) (v : Cell) (s : State) : State := putData (p + 1).toNat v (putData 0x81 (some (p + 1)) s)

/-- The byte and the state a pop gives (R213). -/
def popped (s : State) : Cell × State :=
  match stackPtr s with
  | none => (none, s)
  | some p => (dataCell p.toNat s, putData 0x81 (some (p - 1)) s)

/-! ## What an instruction may write -/

/-- The location of an instruction's byte destination and its operand position, for the forms that have one. -/
def destForm (i : Instr) : Option (ByteLoc × Nat) :=
  match movForm i, xchForm i, logicForm i, stepForm i, djnzForm i with
  | some (l, _), _, _, _, _ => some (l, 0)
  | _, some l, _, _, _ => some (l, 1)
  | _, _, some (_, l, _), _, _ => some (l, 0)
  | _, _, _, some (l, _), _ => some (l, 0)
  | _, _, _, _, some (l, _) => some (l, 0)
  | _, _, _, _, _ => none

/-- The mask of the flag bits an instruction writes in the status byte (R211). -/
def flagMask (i : Instr) : Byte :=
  if (arithForm i).isSome then 0xC5
  else if (logicForm i).isSome then 0x01
  else match i with
  | .clrA | .cplA => 0x01
  | .clrC | .setbC | .cplC | .movCBit _ | .anlCBit _ | .anlCNbit _ | .orlCBit _ | .orlCNbit _
  | .cjneAImm _ _ | .cjneADir _ _ | .cjneIndImm _ _ _ | .cjneRnImm _ _ _ => 0x81
  | _ => 0

/-- Whether the instruction performs a flag write (R211). -/
def writesFlags (i : Instr) : Bool := flagMask i != 0

/-- The offsets the two pushes of a return address write (R214): the second push uses the stack pointer the first left. -/
def callCells (ra : Word) (s : State) : List Nat :=
  match stackPtr s with
  | none => []
  | some p =>
    let s1 := pushed p (some (ra.extractLsb' 0 8)) s
    [0x81, (p + 1).toNat] ++ ((stackPtr s1).map fun q => (q + 1).toNat).toList

/-- The result cells of the instructions that have no byte destination of `destForm`. -/
def otherCells (i : Instr) (s : State) : List Nat :=
  match i with
  | .movDptrImm _ | .incDptr => [0x82, 0x83]
  | .movxADptr | .movxAInd _ | .movcADptr | .movcAPc => [0xE0]
  | .movxDptrA => ((dptr s).bind xdataOffset).toList
  | .movxIndA j => ((rnCell j.val s).bind fun p => xdataOffset (p.zeroExtend 16)).toList
  | .push _ => 0x81 :: ((stackPtr s).map fun p => (p + 1).toNat).toList
  | .pop a => [0x81, a.toNat]
  | .lcall _ => (s.pc.map fun va => callCells (nextPc i va) s).getD []
  | .ret => [0x81]
  | .clrA | .cplA => [0xE0]
  | .clrBit b | .setbBit b | .cplBit b | .movBitC b => [bitAddr b]
  | _ => if (arithForm i).isSome then [0xE0] else []

/-- The physical offsets an instruction stores its result to, computed in the state before it. -/
def resultCells (i : Instr) (s : State) : List Nat :=
  match destForm i with
  | some (l, _) => (l.offset s).toList ++ (if (xchForm i).isSome then [0xE0] else [])
  | none => otherCells i s

/-- Every physical offset an instruction may change: its result and, for a flag write, the status byte. -/
def writtenCells (i : Instr) (s : State) : List Nat :=
  resultCells i s ++ (if writesFlags i then [0xD0] else [])

/-! ## What an instruction may raise, and where control may go -/

/-- The StoreFault of a data address whose offset is `p` (R405). -/
def storeFaultAt (a : Word) (p : Option Nat) : Option Fault :=
  match p with
  | some _ => none
  | none => some (.storeFault .sfr a.toNat)

/-- The error of the instructions that have no byte destination of `destForm`. -/
def otherRaises (i : Instr) (va : Word) (s : State) : Option Fault :=
  match i with
  | .movxADptr => (dptr s).bind fun a => storeFaultAt a (xdataOffset a)
  | .movxDptrA =>
    match dptr s with
    | some a => storeFaultAt a (xdataOffset a)
    | none => some (.undefinedAddress (.operand 0))
  | .movxIndA j =>
    match rnCell j.val s with
    | some _ => none
    | none => some (.undefinedAddress (.operand 0))
  | .movcADptr => (accPlus (dptr s) s).bind fun a => storeFaultAt a (codeDataOffset a)
  | .movcAPc => (accPlus (some (nextPc i va)) s).bind fun a => storeFaultAt a (codeDataOffset a)
  | .push _ | .lcall _ =>
    match stackPtr s with
    | some _ => none
    | none => some (.undefinedAddress .stack)
  | _ => none

/-- The error the execution of an instruction at `va` ends in, from the state alone (R413); `none` when it completes. -/
def raises (i : Instr) (va : Word) (s : State) : Option Fault :=
  match destForm i with
  | some (l, pos) =>
    match l.offset s with
    | some _ => none
    | none => some (.undefinedAddress (l.access pos))
  | none => otherRaises i va s

/-- The displacement of a conditional branch. -/
def condDisp : Instr → Option Int
  | .jc d | .jnc d | .jz d | .jnz d | .jb _ d | .jnb _ d | .cjneAImm _ d | .cjneADir _ d | .cjneIndImm _ _ d
  | .cjneRnImm _ _ d | .djnzDir _ d | .djnzRn _ d => some d
  | _ => none

/-- The control-flow edges of an instruction at `va`, as the table of R166 lists them. -/
def branchEdges (i : Instr) (va : Word) (emu : Option State) : List Edge :=
  match condDisp i, i with
  | some d, _ => [⟨some (nextPc i va), 3⟩, ⟨some (nextPc i va + BitVec.ofInt 16 d), 2⟩]
  | none, .ljmp t => [⟨some t, 0⟩]
  | none, .sjmp d => [⟨some (nextPc i va + BitVec.ofInt 16 d), 0⟩]
  | none, .jmpADptr =>
    match emu with
    | some s => [⟨accPlus (dptr s) s, 8⟩]
    | none => []
  | none, .lcall t => [⟨some (nextPc i va), 1⟩, ⟨some t, 4⟩]
  | none, .ret => []
  | none, _ => [⟨some (nextPc i va), 1⟩]

end Sys2Proof.Machine
end

