-- ==== Sys2Proof/Certificates/Slice0/Obligations.lean ====
section
/-! DEFINITION. The statements for the provers. -/

section
open Sys2Proof Sys2Proof.Machine

/-- Decoding the encoding of any instruction gives it back. From R122, R139, R138.
For every well-formed instruction i, any bytes before and after its encoding and any address va, decoding at the
encoding gives the Opcode of i at va, and that Opcode stands for i. -/
def Obligations.EncodeThenDecode : Prop :=
  ∀ (i : Instr) (pre rest : List Byte) (va : Nat), i.WellFormed = true →
    decode refCfg (pre ++ encode i ++ rest) pre.length va = .ok (i.opcode (BitVec.ofNat 16 va)) ∧
      Instr.ofOpcode (i.opcode (BitVec.ofNat 16 va)) = some i

/-- Every decoded instruction is well formed and its encoding is the bytes it was decoded from. From R122, R138.
If the decoder reads instruction i from a byte sequence, i is well formed and the sequence begins with the
encoding of i. -/
def Obligations.DecodeThenEncode : Prop :=
  ∀ (bytes : List Byte) (i : Instr), decodeInstr bytes = .ok i → i.WellFormed = true ∧ encode i <+: bytes

/-- Exactly the thirty empty ROM entries are invalid instructions, whatever follows. From R113, R131.
Decoding a sequence that begins with byte b is InvalidInstruction(b) exactly when b is one of the thirty bytes
R113 lists. -/
def Obligations.IllegalFirstBytes : Prop :=
  ∀ (b : Byte) (rest : List Byte), decodeInstr (b :: rest) = .error (.invalid b) ↔
    b ∈ ([0x01, 0x03, 0x10, 0x11, 0x13, 0x21, 0x23, 0x31, 0x32, 0x33, 0x41, 0x51, 0x61, 0x71, 0x81, 0x84, 0x85, 0x91, 0xA1, 0xA4, 0xA5, 0xB1, 0xC1, 0xC4, 0xD1, 0xD4, 0xD6, 0xD7, 0xE1, 0xF1] : List Byte)

/-- A proper prefix of an encoding is a truncated instruction. From R136, R402.
Decoding the first n bytes of the encoding of a well-formed instruction, n less than its length, is
TruncatedInstruction, and the bytes it reports as needed run past the end of the prefix and not past the end of
the encoding (the numbers recorded follow log entry 9). -/
def Obligations.TruncatedEncodings : Prop :=
  ∀ (i : Instr) (n : Nat), i.WellFormed = true → n < i.length →
    ∃ need pos, decodeInstr ((encode i).take n) = .error (.truncated need pos) ∧ n < pos + need ∧ pos + need ≤ i.length

/-- A few words written out from the encoding rules decode to the instructions they stand for. From R140, R221, R235, R353, R338.
Six encodings written out from the form rules decode to their instructions. -/
def Obligations.WordsDecode : Prop :=
  decodeInstr [0xB4, 0x10, 0xFD] = .ok (.cjneAImm 0x10 (-3)) ∧
    decodeInstr [0x74, 0x5A] = .ok (.movAImm 0x5A) ∧
    decodeInstr [0x90, 0x12, 0x34] = .ok (.movDptrImm 0x1234) ∧
    decodeInstr [0x02, 0x12, 0x34] = .ok (.ljmp 0x1234) ∧
    decodeInstr [0xB0, 0xD7] = .ok (.anlCNbit 0xD7) ∧
    decodeInstr [0xDA, 0xFE] = .ok (.djnzRn 2 (-2))

/-- The reference configuration has no malformed table entry. From R26, R111.
No register descriptor, segment or ROM entry of REF breaks R26 or R111, so its construction gives the reset
state. -/
def Obligations.ReferenceIsWellFormed : Prop :=
  ref.defect = none ∧ construct ref = .ok (resetBlock ref)

/-- A step runs the instruction whose encoding stands at the program counter. From R190, R85.
When the code cells from PC on hold the encoding of a well-formed instruction, inside the window, step is exec
of that instruction. -/
def Obligations.StepRunsDecoded : Prop :=
  ∀ (i : Instr) (s : State) (va : Word), i.WellFormed = true → s.pc = some va → va.toNat + i.length ≤ 0x10000 →
    (∀ j, j < i.length → s.store.read (0x10100 + va.toNat + j) = (encode i)[j]?) → step s = exec i s

/-- The meaning of a form is the execute transaction on its Opcode at the program counter. From R191, R192, R193.
For every instruction and every state with a defined PC, exec is execute of the instruction's Opcode with
address PC (that exec takes the address from PC is the model's choice, log entry 3). -/
def Obligations.ExecIsExecute : Prop :=
  ∀ (i : Instr) (s : State) (va : Word), s.pc = some va → exec i s = settle (execute ref (i.opcode va) s)

/-- Step is fetch, decode and execute of the Opcode at PC, in every state. From R190.
In every state step is the step transaction of R190 on REF: the dispatch over forms never differs from the
dispatch over iids. -/
def Obligations.StepIsFetchThenExecute : Prop :=
  ∀ s : State, step s = settle (stepBlock ref s)

/-- Execution never reads the program counter. From R191.
Executing the Opcode of any instruction in two states that differ only in PC gives the same result. -/
def Obligations.ExecuteIgnoresPc : Prop :=
  ∀ (i : Instr) (va : Word) (s : State) (q : Option Word),
    execute ref (i.opcode va) { s with pc := q } = execute ref (i.opcode va) s

/-- Every way a fetch ends a step: undefined PC, undefined code cell, illegal byte, end of the window. From R190, R401, R402, R406, R414, R113.
With PC UNDEF step is UndefinedFetch with no address; with the code cell at PC UNDEF it is UndefinedFetch at PC;
with one of the thirty illegal bytes there, the break byte A5 among them, it is InvalidInstruction of that byte
at PC. When the cells from PC on hold the first j bytes of the encoding of a well-formed instruction that fits
the window and the next cell, inside the instruction, is UNDEF, it is UndefinedFetch at that cell; when they
hold its bytes up to 0xFFFF and it runs past that, it is TruncatedInstruction, the bytes it reports as needed
running past the window and not past the instruction (the numbers recorded follow log entry 9). -/
def Obligations.StepFetchErrors : Prop :=
  (∀ s : State, s.pc = none → step s = .fault (.undefinedFetch none)) ∧
    (∀ (s : State) (va : Word), s.pc = some va →
      (s.store.read (0x10100 + va.toNat) = none → step s = .fault (.undefinedFetch (some va))) ∧
      ∀ b : Byte, s.store.read (0x10100 + va.toNat) = some b → b ∈ ([0x01, 0x03, 0x10, 0x11, 0x13, 0x21, 0x23, 0x31, 0x32, 0x33, 0x41, 0x51, 0x61, 0x71, 0x81, 0x84, 0x85, 0x91, 0xA1, 0xA4, 0xA5, 0xB1, 0xC1, 0xC4, 0xD1, 0xD4, 0xD6, 0xD7, 0xE1, 0xF1] : List Byte) →
        step s = .fault (.invalidInstruction b (some va))) ∧
    ∀ (i : Instr) (s : State) (va : Word), i.WellFormed = true → s.pc = some va →
      (∀ j, j < i.length → va.toNat + i.length ≤ 0x10000 →
        (∀ m, m < j → s.store.read (0x10100 + va.toNat + m) = (encode i)[m]?) →
        s.store.read (0x10100 + va.toNat + j) = none → step s = .fault (.undefinedFetch (some (va + BitVec.ofNat 16 j)))) ∧
      (0x10000 < va.toNat + i.length →
        (∀ m, va.toNat + m < 0x10000 → s.store.read (0x10100 + va.toNat + m) = (encode i)[m]?) →
        ∃ need pos, step s = .fault (.truncatedInstruction need pos) ∧ 0x10000 < va.toNat + pos + need ∧
          pos + need ≤ i.length)

/-- Every step keeps the store canonical and within its size. From R24, R45.
From any state whose store is canonical with all offsets below STORE_SIZE, a step that gives a next state gives
one with the same property. -/
def Obligations.StepKeepsInvariant : Prop :=
  ∀ s t : State, s.Inv → step s = .next t → t.Inv

/-- The reset state meets the invariant. From R24, R45.
The reset state's store is canonical and within its size. -/
def Obligations.ResetInvariant : Prop :=
  State.reset.Inv

/-- What reset leaves in every piece of state. Formalises R44.
The reset state is what the reset transaction of REF leaves: PC 0, UFLAGS 0, A 0, PSW 0, SP 7, DPTR cells 0,
every other cell UNDEF. -/
def Obligations.ResetState : Prop :=
  resetBlock ref = State.reset ∧ State.reset.pc = some 0x0000 ∧ State.reset.uflags = false ∧
    State.reset.store.read 0xE0 = some 0x00 ∧ State.reset.store.read 0xD0 = some 0x00 ∧
    State.reset.store.read 0x81 = some 0x07 ∧ State.reset.store.read 0x83 = some 0x00 ∧
    State.reset.store.read 0x82 = some 0x00 ∧
    ∀ p, p ∉ [0xE0, 0xD0, 0x81, 0x83, 0x82] → State.reset.store.read p = none

/-- No step writes CODE, or XRAM from 0x0080 on. From R67, R79, R83.
Whatever the program, a step leaves every physical offset from 0x180 on as it was: all of CODE and all of XRAM
above 0x007F. (REF has THRESH_SCOPE = all, which the spec leaves open: log entry 5.) -/
def Obligations.CodeAndHighXramNeverWritten : Prop :=
  ∀ (s t : State) (p : Nat), 0x180 ≤ p → step s = .next t → t.store.read p = s.store.read p

/-- What each instruction leaves unchanged in memory and registers. From R80, R211.
For every instruction, when it completes, every cell outside the cells computed as its destinations in the state
before it (the stored operand, the stack cells, SP, DPTR halves, A, and PSW for a flag write) reads as before.
(REF has THRESH_SCOPE = all, which the spec leaves open: log entry 5.) -/
def Obligations.ExecFrame : Prop :=
  ∀ (i : Instr) (s t : State) (p : Nat), exec i s = .next t → p ∉ writtenCells i s → t.store.read p = s.store.read p

/-- Which flags each instruction may change. From R35, R211.
When an instruction completes and its result is not stored to the status byte: if it performs no flag write
UFLAGS is unchanged; the status byte stays UNDEF if it was and otherwise changes in no bit outside the flags the
instruction writes. -/
def Obligations.FlagFrame : Prop :=
  ∀ (i : Instr) (s t : State), exec i s = .next t → 0xD0 ∉ resultCells i s →
    (writesFlags i = false → t.uflags = s.uflags) ∧
    (psw s = none → psw t = none) ∧
    ∀ b, psw s = some b → ∃ b', psw t = some b' ∧ b' &&& ~~~(flagMask i) = b &&& ~~~(flagMask i)

/-- Exactly when an instruction stops, and with which error. From R405, R407, R412, R413.
At a defined PC, exec ends in error f exactly when the state alone says so: an UNDEF destination address, an
UNDEF stack pointer, or a movx/movc data address of 0x0100 or more; otherwise it completes, and it never refuses
(the access an UndefinedAddress names follows log entry 9). (REF has THRESH_SCOPE = all, which the spec leaves
open: log entry 5.) -/
def Obligations.ExecRaises : Prop :=
  ∀ (i : Instr) (s : State) (va : Word), s.pc = some va →
    match raises i va s with
    | some f => exec i s = .fault f
    | none => ∃ t, exec i s = .next t

/-- The errors a step of REF can end in. From R412, R413.
Step never refuses; a step that ends in an error ends in InvalidInstruction, TruncatedInstruction, StoreFault,
UndefinedFetch or UndefinedAddress, codes 1, 2, 6, 7 and 8. -/
def Obligations.StepErrors : Prop :=
  ∀ s : State, (∀ r, step s ≠ .refused r) ∧ ∀ f, step s = .fault f → f.code ∈ [1, 2, 6, 7, 8]

/-- A transaction that ends in an error leaves the state as it was. From R194, R410.
For every block and every request, when the answer is an error the state after is the state before. -/
def Obligations.TransactionsAreAtomic : Prop :=
  ∀ (k : Block) (q : Request) (s s' : State) (e : Fault), serve k q s = (s', .error e) → s' = s

/-- An Opcode with an unassigned iid is unsupported. From R192, R403.
For every block, execute of an Opcode whose iid is 0 or above 40 is UnsupportedInstruction of that iid; every
other iid has a handler. -/
def Obligations.UnsupportedIid : Prop :=
  (∀ (k : Block) (opc : Opcode) (s : State), (opc.iid = 0 ∨ 40 < opc.iid.toNat) →
      execute k opc s = .error (.unsupportedInstruction opc.iid)) ∧
    ∀ x : BitVec 8, Iid.ofNum x = none ↔ (x = 0 ∨ 40 < x.toNat)

/-- Banked registers round trip and the banks are independent. From R173, R185.
With the status byte b defined, writing any value to a working register and reading it back gives its low byte,
and read through any status byte that selects another bank the register is what it was. -/
def Obligations.BankAliasing : Prop :=
  ∀ (n : Nat) (v : Val) (s : State) (b : Byte), n < 8 → psw s = some b →
    ∃ t, regSet ref n v s = .ok t ∧ regGet ref n t = .ok (Val.ofCell (valCell v)) ∧
      ∀ b' : Byte, b' &&& 0x18 ≠ b &&& 0x18 →
        regGet ref n (putData 0xD0 (some b') t) = regGet ref n (putData 0xD0 (some b') s)

/-- DPTR is split over 0x83 and 0x82. From R174, R175.
Writing DPTR writes bits 15:8 to 0x83 and bits 7:0 to 0x82, UNDEF to both for UNDEF, and reads back; writing the
halves through their addresses and reading DPTR gives their concatenation, UNDEF if either is. -/
def Obligations.SplitRegister : Prop :=
  (∀ (w : Option Word) (s : State), ∃ t, regSet ref 11 (Val.ofWord w) s = .ok t ∧
      t.store.read 0x83 = w.map (·.extractLsb' 8 8) ∧ t.store.read 0x82 = w.map (·.extractLsb' 0 8) ∧
      regGet ref 11 t = .ok (Val.ofWord w)) ∧
    ∀ (h l : Cell) (s : State), ∃ t u, memWrite ref .sfr 0x83 h s = .ok t ∧ memWrite ref .sfr 0x82 l t = .ok u ∧
      regGet ref 11 u = .ok (match h, l with | some h, some l => .word (h ++ l) | _, _ => .undef)

/-- A register and the memory behind it are one thing. From R27, R186.
A write of register 3 in bank 1, of A, of SP and of the status register is seen by a read of the cell behind it,
and a write of the cell by a read of the register. -/
def Obligations.RegisterAliases : Prop :=
  ∀ (v : Byte) (s : State),
    (psw s = some 0x08 → ∃ t u, memWrite ref .iram 0x0B (some v) s = .ok t ∧ regGet ref 3 t = .ok (.byte v) ∧
      regSet ref 3 (.byte v) s = .ok u ∧ memRead ref .iram 0x0B u = .ok (some v)) ∧
    (∃ t u, memWrite ref .sfr 0xE0 (some v) s = .ok t ∧ regGet ref 8 t = .ok (.byte v) ∧
      regSet ref 8 (.byte v) s = .ok u ∧ memRead ref .sfr 0xE0 u = .ok (some v)) ∧
    (∃ t u, memWrite ref .sfr 0x81 (some v) s = .ok t ∧ regGet ref 10 t = .ok (.byte v) ∧
      regSet ref 10 (.byte v) s = .ok u ∧ memRead ref .sfr 0x81 u = .ok (some v)) ∧
    ∃ t u, memWrite ref .sfr 0xD0 (some v) s = .ok t ∧ regGet ref 9 t = .ok (.byte v) ∧
      regSet ref 9 (.byte v) s = .ok u ∧ memRead ref .sfr 0xD0 u = .ok (some v)

/-- An index with no descriptor, or with an ill-formed one, is a table error. From R183, R26, R408.
For every block an index without a descriptor, or whose descriptor breaks R26 (or the width limit of log entry
4), makes get and set MalformedTable; in REF the indexes without one are those from 13 on and no descriptor is
ill formed. Where STATUS_REG has no descriptor, so is every flag read, every flag write and every bank select
(that the error is met there, not only in get and set, is log entry 10). -/
def Obligations.AbsentRegister : Prop :=
  (∀ (k : Block) (idx : Nat) (v : Val) (s : State),
      (k.cfg.registers[idx]? = none ∨ ∃ d, k.cfg.registers[idx]? = some d ∧ d.WellFormed = false) →
      regGet k idx s = .error (.malformedTable (.register idx)) ∧
      regSet k idx v s = .error (.malformedTable (.register idx))) ∧
    (∀ (k : Block) (f : Flag) (w : FlagWrite) (d : RegDesc) (base : Nat) (s : State),
      k.cfg.registers[k.cfg.statusReg]? = none →
      readFlag k f s = .error (.malformedTable (.register k.cfg.statusReg)) ∧
      setFlags k w s = .error (.malformedTable (.register k.cfg.statusReg)) ∧
      (d.banked = true → directAddress k d base s = .error (.malformedTable (.register k.cfg.statusReg)))) ∧
    (∀ idx, ref.cfg.registers[idx]? = none ↔ 13 ≤ idx) ∧ ∀ d ∈ ref.cfg.registers, d.WellFormed = true

/-- PC is a computed register over PCCELL. From R32, R176.
Reading register 12 gives PCCELL, writing it stores bits 15:0 or UNDEF there and changes nothing else. -/
def Obligations.ProgramCounterRegister : Prop :=
  ∀ (v : Val) (s : State), regGet ref 12 s = .ok (Val.ofWord s.pc) ∧ regSet ref 12 v s = .ok { s with pc := valWord v }

/-- What flags, the status byte and its bits read. Formalises R38.
A flag is UNDEF when UFLAGS is set or the status byte is UNDEF, else its bit. Every data read of offset 0xD0 is
UNDEF while UFLAGS is set; a bit read of it only for bits 7, 6, 2 and 0; every other read is of the stored byte,
and the bank selection ignores UFLAGS. -/
def Obligations.StatusReads : Prop :=
  (∀ (f : Flag) (s : State), flag ref f s =
      if s.uflags = true then none else (psw s).map (·.getLsbD (match f with | .c => 7 | .ac => 6 | .ov => 2 | .p => 0))) ∧
    (∀ s : State, memRead ref .iram 0xD0 s = .ok (if s.uflags = true then none else psw s) ∧
      memRead ref .sfr 0xD0 s = .ok (if s.uflags = true then none else psw s) ∧
      regGet ref 9 s = .ok (Val.ofCell (if s.uflags = true then none else psw s)) ∧
      (stackPtr s = some 0xD0 → pop ref s = .ok (if s.uflags = true then none else psw s, (popped s).2))) ∧
    (∀ (b : Nat) (s : State), memReadBit ref .sfr 0xD0 b s =
      .ok (if s.uflags = true ∧ b ∈ [7, 6, 2, 0] then none else (psw s).map (·.getLsbD b))) ∧
    ∀ (n : Nat) (s : State), bankedAddress ref n s = (psw s).map fun b => n + (b &&& 0x18).toNat

/-- The effect of a flag write. Formalises R39.
A flag write stores each defined flag in its bit of a defined status byte and leaves the other bits and an UNDEF
byte; UFLAGS becomes 1 if a written flag is UNDEF, 0 if all four are written with defined values, and is
unchanged otherwise; nothing else changes. -/
def Obligations.FlagWrites : Prop :=
  ∀ (w : FlagWrite) (s : State),
    (psw s = none → psw (writeFlags ref w s) = none) ∧
    (∀ b, psw s = some b → ∃ b', psw (writeFlags ref w s) = some b' ∧ ∀ j, b'.getLsbD j =
      match j, w.c, w.ac, w.ov, w.p with
      | 7, some (some v), _, _, _ => v
      | 6, _, some (some v), _, _ => v
      | 2, _, _, some (some v), _ => v
      | 0, _, _, _, some (some v) => v
      | _, _, _, _, _ => b.getLsbD j) ∧
    (writeFlags ref w s).uflags = (if w.c = some none ∨ w.ac = some none ∨ w.ov = some none ∨ w.p = some none then true
      else if w.c ≠ none ∧ w.ac ≠ none ∧ w.ov ≠ none ∧ w.p ≠ none then false else s.uflags) ∧
    (writeFlags ref w s).pc = s.pc ∧ ∀ q, q ≠ 0xD0 → (writeFlags ref w s).store.read q = s.store.read q

/-- Generic writes of the status byte. From R40.
A byte write of a defined value to 0xD0, by memory or by register, stores it as given and clears UFLAGS; of
UNDEF it stores UNDEF and leaves UFLAGS; a bit write changes that bit only and leaves UFLAGS. -/
def Obligations.StatusWrites : Prop :=
  ∀ (v : Byte) (s : State),
    (∀ n ∈ [SegName.iram, SegName.sfr], ∃ t u, memWrite ref n 0xD0 (some v) s = .ok t ∧ psw t = some v ∧ t.uflags = false ∧
      memWrite ref n 0xD0 none s = .ok u ∧ psw u = none ∧ u.uflags = s.uflags) ∧
    (∃ t u, regSet ref 9 (.byte v) s = .ok t ∧ psw t = some v ∧ t.uflags = false ∧
      regSet ref 9 .undef s = .ok u ∧ psw u = none ∧ u.uflags = s.uflags) ∧
    ∀ (b : Nat) (x : Bool), b < 8 → ∃ t, memWriteBit ref .sfr 0xD0 b (some x) s = .ok t ∧ t.uflags = s.uflags ∧
      psw t = (psw s).map (setBit · b x)

/-- A bit write is a read-modify-write of one cell. From R71.
Writing bit b of a cell: an UNDEF value makes the cell UNDEF, an UNDEF cell stays so, otherwise bit b becomes
the value and the other seven bits keep theirs; UFLAGS, PC and every other cell are unchanged. -/
def Obligations.BitAccess : Prop :=
  ∀ (p b : Nat) (v : Option Bool) (s : State), b < 8 →
    (v = none → (putBit p b v s).store.read p = none) ∧
    (s.store.read p = none → (putBit p b v s).store.read p = none) ∧
    (∀ x y, v = some x → s.store.read p = some y → ∃ z, (putBit p b v s).store.read p = some z ∧
      ∀ j, j < 8 → z.getLsbD j = if j = b then x else y.getLsbD j) ∧
    (putBit p b v s).uflags = s.uflags ∧ (putBit p b v s).pc = s.pc ∧
    ∀ q, q ≠ p → (putBit p b v s).store.read q = s.store.read q

/-- Where data accesses land under both values of THRESH_SCOPE. From R64, R66, R67.
For every access under all, and for direct, bit and register-storage accesses under direct_bit_reg: below 0x80
an XDATA or CODE access is to XRAM or CODE and an IDATA access to the internal RAM byte of that number, from
0x80 to 0xFF every access is to the SFR byte of that number, from 0x100 on it is a StoreFault of the SFR
segment. Indirect, indexed and stack accesses under direct_bit_reg always use the tag's segment: XDATA and CODE
never fault, IDATA is the byte of that number below 0x100 and a StoreFault of the internal RAM segment from
there on. (REF has THRESH_SCOPE = all, which the spec leaves open: log entry 5.) -/
def Obligations.ThresholdScope : Prop :=
  ∀ a : Word,
    (∀ (k : Block) (kind : AccessKind),
      (k = ref ∨ k = refNarrow ∧ kind ∈ [AccessKind.direct, AccessKind.bit, AccessKind.regStorage]) →
      (a.toNat < 0x80 → locate k (sel k .xdata kind a.toNat) a.toNat = .ok (0x100 + a.toNat) ∧
        locate k (sel k .code kind a.toNat) a.toNat = .ok (0x10100 + a.toNat) ∧
        locate k (sel k .idata kind a.toNat) a.toNat = .ok a.toNat) ∧
      (0x80 ≤ a.toNat → a.toNat < 0x100 → ∀ t, locate k (sel k t kind a.toNat) a.toNat = .ok a.toNat) ∧
      (0x100 ≤ a.toNat → ∀ t, locate k (sel k t kind a.toNat) a.toNat = .error (.storeFault .sfr a.toNat))) ∧
    ∀ kind ∈ [AccessKind.indirect, AccessKind.indexed, AccessKind.stack],
      locate refNarrow (sel refNarrow .xdata kind a.toNat) a.toNat = .ok (0x100 + a.toNat) ∧
      locate refNarrow (sel refNarrow .code kind a.toNat) a.toNat = .ok (0x10100 + a.toNat) ∧
      (a.toNat < 0x100 → locate refNarrow (sel refNarrow .idata kind a.toNat) a.toNat = .ok a.toNat) ∧
      (0x100 ≤ a.toNat →
        locate refNarrow (sel refNarrow .idata kind a.toNat) a.toNat = .error (.storeFault .iram a.toNat))

/-- What the hook modes do to a register access. From R42, R177.
For every block and well-formed descriptor: in mode replace a register with a read hook reads what the hook
returns at the register's width, and a write to one with a write hook stores nothing; a register without the
hook of the access, or in mode none or also, takes the default path. -/
def Obligations.RegisterHooks : Prop :=
  ∀ (k : Block) (idx : Nat) (d : RegDesc) (v : Val) (s : State), k.cfg.registers[idx]? = some d → d.WellFormed = true →
    (∀ hook, k.hookMode idx = .replace → k.readHook idx = some hook →
      regGet k idx s = .ok (fitWidth d.widthBytes (hook s))) ∧
    (∀ hook, k.hookMode idx = .replace → k.writeHook idx = some hook → regSet k idx v s = .ok s) ∧
    (k.hookMode idx ≠ .replace ∨ k.readHook idx = none → regGet k idx s = regGetDefault k idx d s) ∧
    (k.hookMode idx ≠ .replace ∨ k.writeHook idx = none → regSet k idx v s = regSetDefault k idx d v s)

/-- The host loads bytes and peeks them back. From R87, R404, R420.
Loading bytes inside the CODE window succeeds, leaves PC, UFLAGS and every cell outside the written ones, and
peek then gives each byte. Peek of the status byte gives the stored byte whatever UFLAGS is. Load and peek of a
name that is not registered are UnknownSegment of that name. A load of no bytes checks its name but no window:
it is UnknownSegment too, and at 0x10000 of CODE it succeeds (both are log entry 16). -/
def Obligations.LoadThenPeek : Prop :=
  (∀ (a : Nat) (bytes : List Byte) (s : State), a + bytes.length ≤ 0x10000 →
      ∃ t, load ref .code a bytes s = .ok t ∧ t.pc = s.pc ∧ t.uflags = s.uflags ∧
        (∀ j, j < bytes.length → peek ref .code (a + j) t = .ok bytes[j]?) ∧
        ∀ p, (p < 0x10100 + a ∨ 0x10100 + a + bytes.length ≤ p) → t.store.read p = s.store.read p) ∧
    (∀ s : State, peek ref .sfr 0xD0 s = .ok (psw s) ∧ peek ref .iram 0xD0 s = .ok (psw s)) ∧
    ∀ (k : Block) (n : SegName) (a : Nat) (bytes : List Byte) (s : State), (∀ g ∈ k.cfg.segments, g.name ≠ n) →
      load k n a bytes s = .error (.unknownSegment n) ∧ peek k n a s = .error (.unknownSegment n)

/-- Addition and subtraction on integers equal their bit-level forms. From R196, R197, R202.
For all bytes and carry: ADD gives the nine-bit sum, its carry out, the nibble carry and the sign rule for OV;
SUB gives the difference modulo 256, the borrows and the sign rule; both give P of the result. -/
def Obligations.AluBitForms : Prop :=
  ∀ (a b : Byte) (cin : Bool),
    (let o := aluAdd 8 a b cin
     let s9 : BitVec 9 := a.zeroExtend 9 + b.zeroExtend 9 + (BitVec.ofBool cin).zeroExtend 9
     let n5 : BitVec 5 := (a.extractLsb' 0 4).zeroExtend 5 + (b.extractLsb' 0 4).zeroExtend 5 + (BitVec.ofBool cin).zeroExtend 5
     o.r = s9.extractLsb' 0 8 ∧ o.c = s9.getLsbD 8 ∧ o.ac = n5.getLsbD 4 ∧
       o.ov = (a.msb == b.msb && o.r.msb != a.msb) ∧ o.p = parity o.r) ∧
    (let o := aluSub 8 a b cin
     o.r = a - b - (BitVec.ofBool cin).zeroExtend 8 ∧ o.c = decide (a.toNat < b.toNat + cin.toNat) ∧
       o.ac = decide (a.toNat % 16 < b.toNat % 16 + cin.toNat) ∧
       o.ov = (a.msb != b.msb && o.r.msb != a.msb) ∧ o.p = parity o.r)

/-- P is 1 for an even number of set bits of the low byte. Formalises R204.
The parity of a byte is the negated exclusive or of its eight bits, a wider value has the parity of its low
byte, and the five examples of the rule hold. -/
def Obligations.ParityIsEvenCount : Prop :=
  (∀ v : Byte, parity v = !(v.getLsbD 0 ^^ v.getLsbD 1 ^^ v.getLsbD 2 ^^ v.getLsbD 3 ^^ v.getLsbD 4 ^^ v.getLsbD 5 ^^
      v.getLsbD 6 ^^ v.getLsbD 7)) ∧
    (∀ w : Word, parity w = parity (w.extractLsb' 0 8)) ∧
    parity (0x00 : Byte) = true ∧ parity (0x01 : Byte) = false ∧ parity (0x03 : Byte) = true ∧
    parity (0xFF : Byte) = true ∧ parity (0x80 : Byte) = false

/-- CMP is an unsigned comparison. Formalises R209.
On two bytes CMP gives whether they differ and whether the first is below the second unsigned; with an UNDEF
input both outputs are UNDEF. -/
def Obligations.CompareUnsigned : Prop :=
  (∀ a b : Byte, aluCmp (.byte a) (.byte b) = some (decide (a ≠ b), decide (a.toNat < b.toNat))) ∧
    ∀ v : Val, aluCmp .undef v = none ∧ aluCmp v .undef = none

/-- An undefined input makes every ALU output undefined. From R207.
For every operation and every width: an UNDEF operand or carry gives an UNDEF result and UNDEF flags, with no
short cut for absorbing values. -/
def Obligations.UndefPropagates : Prop :=
  (∀ op a b c, a = Val.undef ∨ b = Val.undef ∨ c = none → arith op a b c = (.undef, ⟨some none, some none, some none, some none⟩)) ∧
    (∀ op a b, a = Val.undef ∨ b = Val.undef → logic op a b = (.undef, ⟨none, none, none, some none⟩)) ∧
    aluInc .undef = .undef ∧ aluDec .undef = .undef ∧ aluNot .undef = .undef ∧ parityOf .undef = none ∧ aluBnot none = none ∧
    ∀ c b : Option Bool, c = none ∨ b = none → aluBand c b = none ∧ aluBor c b = none

/-- The fourteen MOV forms between bytes: result and completion. From R220, R221, R222, R223, R224, R225, R226, R227, R228, R229, R230, R231.
For every byte MOV form (A, Rn, direct, @Ri destinations, R221 to R234) whose destination offset is defined,
exec gives exactly the state with the source cell written there (UFLAGS cleared by a defined write of the status
byte) and PC at the next instruction. Constructors: movAImm, movADir, movAInd, movARn, movRnA, movRnImm,
movRnDir, movDirA, movDirImm, movDirRn, movDirInd, movIndA, movIndImm, movIndDir. -/
def Obligations.MovBytes : Prop :=
  ∀ (i : Instr) (l : ByteLoc) (c : ByteSrc) (s : State) (va : Word) (p : Nat), movForm i = some (l, c) → s.pc = some va →
    l.offset s = some p → exec i s = .next { putData p (c.cell s) s with pc := some (nextPc i va) }

/-- mov DPTR, #imm16 and inc DPTR: result and completion. From R206, R220, R235, R275, R280.
mov writes bits 15:8 of the immediate to 0x83 and bits 7:0 to 0x82, PC plus 3; inc writes DPTR plus 1 modulo
2^16 so, UNDEF to both when DPTR is UNDEF, PC plus 1; no flag is written and nothing else changes. Constructors:
movDptrImm, incDptr. -/
def Obligations.DptrForms : Prop :=
  ∀ (s : State) (va : Word), s.pc = some va →
    (∀ imm : Word, exec (.movDptrImm imm) s = .next { putData 0x82 (some (imm.extractLsb' 0 8))
      (putData 0x83 (some (imm.extractLsb' 8 8)) s) with pc := some (va + 3) }) ∧
    exec .incDptr s = .next { putData 0x82 ((dptr s).map fun w => (w + 1).extractLsb' 0 8)
      (putData 0x83 ((dptr s).map fun w => (w + 1).extractLsb' 8 8) s) with pc := some (va + 1) }

/-- movx A, @DPTR and movx A, @Ri: result and completion. From R67, R236, R237, R238.
Through a pointer whose data address has an offset, A receives the cell there; through an UNDEF pointer A
becomes UNDEF; nothing else changes but PC. @Ri always completes. (REF has THRESH_SCOPE = all, which the spec
leaves open: log entry 5.) Constructors: movxADptr, movxAInd. -/
def Obligations.MovxReads : Prop :=
  ∀ (s : State) (va : Word), s.pc = some va →
    (dptr s = none → exec .movxADptr s = .next { putData 0xE0 none s with pc := some (va + 1) }) ∧
    (∀ a p, dptr s = some a → xdataOffset a = some p →
      exec .movxADptr s = .next { putData 0xE0 (dataCell p s) s with pc := some (va + 1) }) ∧
    ∀ j : Fin 2, exec (.movxAInd j) s = .next { putData 0xE0 ((rnCell j.val s).bind fun b =>
      (xdataOffset (b.zeroExtend 16)).bind (dataCell · s)) s with pc := some (va + 1) }

/-- movx @DPTR, A and movx @Ri, A: result and completion. From R67, R236, R239, R240.
Through a defined pointer whose data address has an offset, the cell there receives A; nothing else changes but
PC, and UFLAGS when that cell is the status byte. (REF has THRESH_SCOPE = all, which the spec leaves open: log
entry 5.) Constructors: movxDptrA, movxIndA. -/
def Obligations.MovxWrites : Prop :=
  ∀ (s : State) (va : Word), s.pc = some va →
    (∀ a p, dptr s = some a → xdataOffset a = some p →
      exec .movxDptrA s = .next { putData p (acc s) s with pc := some (va + 1) }) ∧
    ∀ (j : Fin 2) (b : Byte) (p : Nat), rnCell j.val s = some b → xdataOffset (b.zeroExtend 16) = some p →
      exec (.movxIndA j) s = .next { putData p (acc s) s with pc := some (va + 1) }

/-- movc A, @A+DPTR and movc A, @A+PC: result and completion. From R67, R241, R242, R243.
With the address formed from the old A and DPTR or the next instruction's address, A receives the cell at its
offset; an UNDEF input makes A UNDEF; nothing else changes but PC. (REF has THRESH_SCOPE = all, which the spec
leaves open: log entry 5.) Constructors: movcADptr, movcAPc. -/
def Obligations.MovcReads : Prop :=
  ∀ (s : State) (va : Word) (i : Instr) (base : Option Word), s.pc = some va →
    (i = .movcADptr ∧ base = dptr s ∨ i = .movcAPc ∧ base = some (va + 1)) →
    (accPlus base s = none → exec i s = .next { putData 0xE0 none s with pc := some (va + 1) }) ∧
    ∀ a p, accPlus base s = some a → codeDataOffset a = some p →
      exec i s = .next { putData 0xE0 (dataCell p s) s with pc := some (va + 1) }

/-- push direct and pop direct: result and completion. From R212, R213, R244, R245, R246, R247.
push reads the operand, increments SP and stores the byte at the new SP; pop reads the byte at SP, decrements
SP, then writes the operand, and with SP UNDEF writes UNDEF and leaves SP. Constructors: push, pop. -/
def Obligations.PushAndPop : Prop :=
  ∀ (a : Byte) (s : State) (va : Word), s.pc = some va →
    (∀ p, stackPtr s = some p → exec (.push a) s = .next { putData (p + 1).toNat (dataCell a.toNat s)
      (putData 0x81 (some (p + 1)) s) with pc := some (va + 2) }) ∧
    (∀ p, stackPtr s = some p → exec (.pop a) s = .next { putData a.toNat (dataCell p.toNat s)
      (putData 0x81 (some (p - 1)) s) with pc := some (va + 2) }) ∧
    (stackPtr s = none → exec (.pop a) s = .next { putData a.toNat none s with pc := some (va + 2) })

/-- The three XCH forms: result and completion. From R248, R249, R250, R251.
When the other operand's offset is defined, A receives its cell and then it receives the old A; nothing else
changes but PC, and UFLAGS when it is the status byte. Constructors: xchADir, xchAInd, xchARn. -/
def Obligations.XchBytes : Prop :=
  ∀ (i : Instr) (l : ByteLoc) (s : State) (va : Word) (p : Nat), xchForm i = some l → s.pc = some va → l.offset s = some p →
    exec i s = .next { putData p (acc s) (putData 0xE0 (l.cell s) s) with pc := some (nextPc i va) }

/-- The twelve ADD, ADDC and SUBB forms: result, flags and completion. From R208, R211, R260, R261, R262, R263, R264, R265, R270.
In every state with a defined PC each form writes to A the sum or difference of A and the source with the carry
in R211 gives (UNDEF if any input is), then C, AC, OV and P in one flag write, and changes nothing else but PC.
Constructors: addAImm, addADir, addAInd, addARn, addcAImm, addcADir, addcAInd, addcARn, subbAImm, subbADir,
subbAInd, subbARn. -/
def Obligations.ArithmeticOnA : Prop :=
  ∀ (i : Instr) (op : ArithOp) (c : ByteSrc) (s : State) (va : Word), arithForm i = some (op, c) → s.pc = some va →
    exec i s = .next { writeFlags ref (op.apply (acc s) (c.cell s) (op.carryIn s)).2
      (putData 0xE0 (op.apply (acc s) (c.cell s) (op.carryIn s)).1 s) with pc := some (nextPc i va) }

/-- The eighteen ANL, ORL and XRL byte forms: result, flag and completion. From R203, R208, R211, R286, R293, R300.
In every state with a defined PC each form writes the bitwise result to its destination (UNDEF if an input is)
and then P alone in one flag write, also when the destination is the status byte, and changes nothing else but
PC. Constructors: anlAImm, anlADir, anlAInd, anlARn, anlDirA, anlDirImm, orlAImm, orlADir, orlAInd, orlARn,
orlDirA, orlDirImm, xrlAImm, xrlADir, xrlAInd, xrlARn, xrlDirA, xrlDirImm. -/
def Obligations.LogicBytes : Prop :=
  ∀ (i : Instr) (op : LogicOp) (l : ByteLoc) (c : ByteSrc) (s : State) (va : Word), logicForm i = some (op, l, c) →
    s.pc = some va → ∃ p, l.offset s = some p ∧
      exec i s = .next { writeFlags ref (op.apply (l.cell s) (c.cell s)).2 (putData p (op.apply (l.cell s) (c.cell s)).1 s)
        with pc := some (nextPc i va) }

/-- The eight byte forms of INC and DEC: result and completion. From R206, R275, R276, R277, R278, R279, R281, R282, R283, R284, R285.
When the operand's offset is defined, its cell receives its value plus or minus 1 modulo 256, UNDEF staying
UNDEF, and no flag is written. Constructors: incA, incDir, incInd, incRn, decA, decDir, decInd, decRn. -/
def Obligations.IncDecBytes : Prop :=
  ∀ (i : Instr) (l : ByteLoc) (k : Byte) (s : State) (va : Word) (p : Nat), stepForm i = some (l, k) → s.pc = some va →
    l.offset s = some p → exec i s = .next { putData p ((l.cell s).map (· + k)) s with pc := some (nextPc i va) }

/-- clr A and cpl A: result, flag and completion. From R203, R307, R308, R309, R310.
clr A stores 0 whatever A was and P = 1; cpl A stores the complement and its parity, UNDEF for UNDEF; both write
P alone. Constructors: clrA, cplA. -/
def Obligations.ClearAndComplementA : Prop :=
  ∀ (s : State) (va : Word), s.pc = some va →
    exec .clrA s = .next { writeFlags ref { p := some (some true) } (putData 0xE0 (some 0) s) with pc := some (va + 1) } ∧
    exec .cplA s = .next { writeFlags ref { p := some ((acc s).map fun a => parity (~~~a)) }
      (putData 0xE0 ((acc s).map (~~~·)) s) with pc := some (va + 1) }

/-- The eight instructions that rewrite the carry: flags and completion. From R205, R211, R320, R322, R324, R332, R336, R339.
clr C, setb C, cpl C, mov C, anl C and orl C (plain and complemented bit) write the carry R211 gives and P of
the accumulator in one partial flag write, and change nothing else but PC. Constructors: clrC, setbC, cplC,
movCBit, anlCBit, anlCNbit, orlCBit, orlCNbit. -/
def Obligations.CarryRewrites : Prop :=
  ∀ (i : Instr) (c : Option Bool) (s : State) (va : Word), carryForm s i = some c → s.pc = some va →
    exec i s = .next { writeFlags ref { c := some c, p := some ((acc s).map parity) } s with pc := some (nextPc i va) }

/-- The four instructions that write a bit: result and completion. From R71, R150, R326, R328, R330, R334.
clr bit, setb bit, cpl bit and mov bit, C write 0, 1, the complement and the carry to the addressed bit by one
bit write and change nothing else but PC. Constructors: clrBit, setbBit, cplBit, movBitC. -/
def Obligations.BitWrites : Prop :=
  ∀ (i : Instr) (b : Byte) (v : Option Bool) (s : State) (va : Word), bitForm s i = some (b, v) → s.pc = some va →
    exec i s = .next { putBit (bitAddr b) (bitNum b) v s with pc := some (nextPc i va) }

/-- nop, ljmp, sjmp and jmp @A+DPTR: the PC and nothing else. From R151, R153, R350, R352, R354, R356.
nop goes to the next instruction, ljmp to its address, sjmp to the next instruction plus its displacement, jmp
to A plus DPTR or UNDEF when either is; the rest of the state is unchanged. Constructors: nop, ljmp, sjmp,
jmpADptr. -/
def Obligations.Jumps : Prop :=
  ∀ (s : State) (va : Word), s.pc = some va →
    exec .nop s = .next { s with pc := some (va + 1) } ∧
    (∀ t, exec (.ljmp t) s = .next { s with pc := some t }) ∧
    (∀ d, exec (.sjmp d) s = .next { s with pc := some (va + 2 + BitVec.ofInt 16 d) }) ∧
    exec .jmpADptr s = .next { s with pc := accPlus (dptr s) s }

/-- lcall: the return address, the stack and completion. From R214, R358, R359.
With SP = p defined, lcall stores the low byte of the return address at p+1 and then, at one above the stack
pointer that push left (p+1 again unless it overwrote SP itself), the high byte, leaves SP there and goes to the
target. Constructors: lcall. -/
def Obligations.LongCall : Prop :=
  ∀ (t : Word) (s : State) (va : Word) (p : Byte), s.pc = some va → stackPtr s = some p →
    ∃ q, stackPtr (pushed p (some ((va + 3).extractLsb' 0 8)) s) = some q ∧ (p ≠ 0x80 → q = p + 1) ∧
      exec (.lcall t) s = .next { pushed q (some ((va + 3).extractLsb' 8 8)) (pushed p (some ((va + 3).extractLsb' 0 8)) s)
        with pc := some t }

/-- ret: the popped address and completion. From R215, R218, R360, R361.
ret pops the high byte and then the low byte and goes to their concatenation, to UNDEF when either is UNDEF; it
always completes. Constructors: ret. -/
def Obligations.Return : Prop :=
  ∀ (s : State) (va : Word), s.pc = some va →
    exec .ret s = .next { (popped (popped s).2).2 with pc :=
      match (popped s).1, (popped (popped s).2).1 with
      | some h, some l => some (h ++ l)
      | _, _ => none }

/-- jc, jnc, jz, jnz, jb and jnb: the PC and nothing else. From R218, R362, R364, R366, R368, R370, R372.
Each goes to the next instruction plus its displacement when its condition holds, to the next instruction when
it does not, and makes PC UNDEF when the condition is UNDEF; the rest of the state is unchanged. Constructors:
jc, jnc, jz, jnz, jb, jnb. -/
def Obligations.ConditionalBranches : Prop :=
  ∀ (i : Instr) (c : Option Bool) (d : Int) (s : State) (va : Word), branchForm s i = some (c, d) → s.pc = some va →
    exec i s = .next { s with pc := branchPc i va c d }

/-- The four CJNE forms: flags, PC and completion. From R205, R209, R218, R374, R375, R376, R377, R378.
Each writes C = unsigned below and P of the accumulator, UNDEF C when an operand is UNDEF, in one partial flag
write, and branches when the operands differ, to UNDEF when undecided. Constructors: cjneAImm, cjneADir,
cjneIndImm, cjneRnImm. -/
def Obligations.CompareAndBranch : Prop :=
  ∀ (i : Instr) (l : ByteLoc) (c : ByteSrc) (d : Int) (s : State) (va : Word), cjneForm i = some (l, c, d) →
    s.pc = some va →
    exec i s = .next { writeFlags ref
        { c := some ((l.cell s).bind fun a => (c.cell s).map fun b => decide (a.toNat < b.toNat)),
          p := some ((acc s).map parity) } s
      with pc := branchPc i va ((l.cell s).bind fun a => (c.cell s).map fun b => decide (a ≠ b)) d }

/-- The two DJNZ forms: result, PC and completion. From R218, R379, R380, R381.
When the counter's offset is defined its cell receives its value minus 1 (UNDEF for UNDEF), no flag is written,
and the branch is taken when the new value is not zero, PC UNDEF when it is UNDEF. Constructors: djnzDir,
djnzRn. -/
def Obligations.DecrementAndBranch : Prop :=
  ∀ (i : Instr) (l : ByteLoc) (d : Int) (s : State) (va : Word) (p : Nat), djnzForm i = some (l, d) → s.pc = some va →
    l.offset s = some p →
    exec i s = .next { putData p ((l.cell s).map (· - 1)) s with
      pc := branchPc i va ((l.cell s).map fun v => v - 1 != 0) d }

/-- A write through an undefined pointer or bank stops. From R72, R171, R407.
Every form with a written @Ri, @DPTR or Rn operand, when that address is UNDEF, ends in UndefinedAddress naming
the operand or the register, in the spec's own terms: @Ri when Ri or the status byte is UNDEF, Rn when the
status byte is, @DPTR when either half of DPTR is (the access named follows log entry 9). The last two clauses
are movx @Ri, A and movx @DPTR, A. -/
def Obligations.UndefinedDestinationTraps : Prop :=
  (∀ (i : Instr) (l : ByteLoc) (pos : Nat) (s : State) (va : Word), destForm i = some (l, pos) → s.pc = some va →
      (l.offset s = none → exec i s = .fault (.undefinedAddress (l.access pos))) ∧
      (l.offset s = none ↔ (∃ n : Fin 8, l = .rn n ∧ psw s = none) ∨ ∃ j : Fin 2, l = .ind j ∧ rnCell j.val s = none)) ∧
    ∀ (s : State) (va : Word), s.pc = some va →
      (∀ j : Fin 2, rnCell j.val s = none → exec (.movxIndA j) s = .fault (.undefinedAddress (.operand 0))) ∧
      (s.store.read 0x83 = none ∨ s.store.read 0x82 = none →
        exec .movxDptrA s = .fault (.undefinedAddress (.operand 0)))

/-- A call and its return restore the stack pointer and come back behind the call. From R214, R215, R216.
After lcall at va with SP = p (where the two stack bytes do not fall on SP itself), a ret in any later state
that has the same stack pointer and the same two stack bytes completes with PC = va + 3 and SP = p. -/
def Obligations.CallReturnRoundTrip : Prop :=
  ∀ (t va : Word) (s u w : State) (p : Byte), s.pc = some va → stackPtr s = some p → p ≠ 0x80 → p ≠ 0x7F →
    exec (.lcall t) s = .next u → stackPtr w = stackPtr u → dataCell (p + 1).toNat w = dataCell (p + 1).toNat u →
    dataCell (p + 2).toNat w = dataCell (p + 2).toNat u → w.pc ≠ none →
    ∃ v, exec .ret w = .next v ∧ v.pc = some (va + 3) ∧ stackPtr v = some p

/-- The control-flow edges of every instruction. From R161, R162, R163, R164, R165, R166.
For every instruction, address and emulator choice get_branches gives exactly the edges of the table of R166,
the fallthrough edge first. -/
def Obligations.BranchEdges : Prop :=
  ∀ (i : Instr) (va : Word) (emu : Option State), getBranches ref (i.opcode va) emu = .ok (branchEdges i va emu)

/-- Where an instruction goes is where its edges say. From R161, R166, R193, R218.
When an instruction other than ret at va completes, the PC after it is the target of one of the edges
get_branches gives for it in the state before, or is UNDEF, and then it is a conditional branch or jmp @A+DPTR. -/
def Obligations.ControlFlowIsSound : Prop :=
  ∀ (i : Instr) (s t : State) (va : Word) (es : List Edge), s.pc = some va → i ≠ .ret → exec i s = .next t →
    getBranches ref (i.opcode va) (some s) = .ok es →
    (∃ e ∈ es, e.target = t.pc) ∨ (t.pc = none ∧ (condDisp i).isSome = true)

end
end

