-- ==== Sys2Proof/Laws/Memory.lean ====
section
/-! SUPPORT. The laws of the store: a read after a write, and what a write keeps. -/

namespace Sys2Proof.Machine

theorem Memory.read_insert (m : Memory) (p q : Nat) (b : Byte) (h : ∀ x ∈ m, x.1 ≠ p) :
    (Memory.insert p b m).read q = if p = q then some b else m.read q := by
  induction m with
  | nil => simp [Memory.insert, Memory.read]
  | cons x m ih =>
    obtain ⟨k, c⟩ := x
    have hk : k ≠ p := h (k, c) (by simp)
    have hm : ∀ x ∈ m, x.1 ≠ p := fun x hx => h x (by simp [hx])
    by_cases hlt : p < k
    · simp [Memory.insert, hlt, Memory.read]
    · simp only [Memory.insert, hlt, if_false, Memory.read, ih hm]
      by_cases h1 : k = q
      · have : p ≠ q := fun h => hk (h1.trans h.symm)
        simp [h1, this]
      · simp [h1]

theorem Memory.read_erase (m : Memory) (p q : Nat) : (m.erase p).read q = if p = q then none else m.read q := by
  induction m with
  | nil => simp [Memory.erase, Memory.read]
  | cons x m ih =>
    obtain ⟨k, c⟩ := x
    simp only [Memory.erase] at ih ⊢
    by_cases hk : k = p
    · subst hk
      by_cases h : k = q <;> simp_all [Memory.read]
    · by_cases h : p = q
      · subst h; simp_all [Memory.read]
      · simp_all [Memory.read]

/-- A read after a write: the value at the written offset, every other offset as before. -/
theorem Memory.read_write (m : Memory) (p q : Nat) (v : Cell) :
    (m.write p v).read q = if p = q then v else m.read q := by
  cases v with
  | none => exact Memory.read_erase m p q
  | some b =>
    have h : ∀ x ∈ m.erase p, x.1 ≠ p := by simp [Memory.erase]
    rw [Memory.write, Memory.read_insert _ _ _ _ h, Memory.read_erase]
    by_cases hpq : p = q <;> simp [hpq]

@[simp] theorem Memory.read_write_same (m : Memory) (p : Nat) (v : Cell) : (m.write p v).read p = v := by
  simp [Memory.read_write]

theorem Memory.read_write_ne (m : Memory) {p q : Nat} (v : Cell) (h : p ≠ q) : (m.write p v).read q = m.read q := by
  simp [Memory.read_write, h]

theorem Memory.mem_insert (m : Memory) (p : Nat) (b : Byte) (x : Host.Cell) :
    x ∈ Memory.insert p b m → x = (p, b) ∨ x ∈ m := by
  induction m with
  | nil => simp [Memory.insert]
  | cons y m ih =>
    obtain ⟨k, c⟩ := y
    by_cases hlt : p < k
    · simp [Memory.insert, hlt]
    · simp only [Memory.insert, hlt, if_false, List.mem_cons]
      rintro (h | h)
      · exact .inr (.inl h)
      · rcases ih h with h | h
        · exact .inl h
        · exact .inr (.inr h)

theorem Memory.wf_insert (m : Memory) (p : Nat) (b : Byte) (hw : m.wf) (h : ∀ x ∈ m, x.1 ≠ p) :
    (Memory.insert p b m).wf := by
  induction m with
  | nil => simp [Memory.insert, Memory.wf]
  | cons y m ih =>
    obtain ⟨k, c⟩ := y
    have hk : k ≠ p := h (k, c) (by simp)
    have hm : ∀ x ∈ m, x.1 ≠ p := fun x hx => h x (by simp [hx])
    obtain ⟨h1, h2⟩ := List.pairwise_cons.1 hw
    by_cases hlt : p < k
    · simp only [Memory.insert, hlt, if_true]
      refine List.pairwise_cons.2 ⟨fun x hx => ?_, hw⟩
      rcases List.mem_cons.1 hx with rfl | hx
      · exact hlt
      · exact hlt.trans (h1 x hx)
    · simp only [Memory.insert, hlt, if_false]
      refine List.pairwise_cons.2 ⟨fun x hx => ?_, ih h2 hm⟩
      rcases Memory.mem_insert m p b x hx with rfl | hx
      · simp only; omega
      · exact h1 x hx

/-- A write keeps the canonical form. -/
theorem Memory.wf_write (m : Memory) (p : Nat) (v : Cell) (h : m.wf) : (m.write p v).wf := by
  have he : (m.erase p).wf := h.filter _
  cases v with
  | none => exact he
  | some b => exact Memory.wf_insert _ p b he (by simp [Memory.erase])

/-- A write at an offset of STORE keeps the store within its size. -/
theorem Memory.inStore_write (m : Memory) (p : Nat) (v : Cell) (hp : p < refStoreSize) (h : m.inStore) :
    (m.write p v).inStore := by
  have he : (m.erase p).inStore := fun x hx => h x (List.mem_filter.1 hx).1
  cases v with
  | none => exact he
  | some b =>
    intro x hx
    rcases Memory.mem_insert _ p b x hx with rfl | hx
    · exact hp
    · exact he x hx

/-- Two canonical stores that read alike are equal. -/
theorem Memory.ext_read {m n : Memory} (hm : m.wf) (hn : n.wf) (h : ∀ p, m.read p = n.read p) : m = n := by
  have key : ∀ {m : Memory} (p : Nat) (b : Byte), m.wf → (m.read p = some b ↔ (p, b) ∈ m) := by
    intro m p b hw
    induction m with
    | nil => simp [Memory.read]
    | cons x m ih =>
      obtain ⟨k, c⟩ := x
      obtain ⟨h1, h2⟩ := List.pairwise_cons.1 hw
      by_cases hk : k = p
      · subst hk
        have : (k, b) ∉ m := fun hx => absurd (h1 _ hx) (lt_irrefl _)
        simp [Memory.read, this, eq_comm]
      · simp [Memory.read, hk, ih h2, Ne.symm hk]
  have hperm : ∀ x, x ∈ m ↔ x ∈ n := fun ⟨p, b⟩ => by rw [← key p b hm, ← key p b hn, h p]
  have nd : ∀ {m : Memory}, m.wf → m.Nodup := fun hw => hw.imp fun hlt he => absurd (he ▸ hlt) (lt_irrefl _)
  have hp := (List.perm_ext_iff_of_nodup (nd hm) (nd hn)).2 hperm
  exact hp.eq_of_pairwise (fun a b _ _ h1 h2 => absurd (h1.trans h2) (lt_irrefl _)) hm hn

end Sys2Proof.Machine
end

