-- ==== Sys2Proof/Laws/State.lean ====
section
/-! SUPPORT. One lemma per field for each named update of the state, and the small lemmas of values and of `Except`. -/

namespace Sys2Proof.Machine

/-! ## Except -/

@[simp] theorem except_ok_bind {ε α β : Type} (a : α) (f : α → Except ε β) : (Except.ok a >>= f) = f a := rfl

@[simp] theorem except_error_bind {ε α β : Type} (e : ε) (f : α → Except ε β) :
    ((Except.error e : Except ε α) >>= f) = .error e := rfl

@[simp] theorem except_pure {ε α : Type} (a : α) : (pure a : Except ε α) = .ok a := rfl

/-- A sequence succeeds exactly when both parts do. -/
theorem except_bind_ok {ε α β : Type} {x : Except ε α} {f : α → Except ε β} {b : β} :
    (x >>= f) = .ok b ↔ ∃ a, x = .ok a ∧ f a = .ok b := by
  cases x <;> simp

@[simp] theorem fall_ok (s : State) : fall (.ok s) = .ok (s, .next) := rfl

@[simp] theorem fall_error (e : Fault) : fall (.error e) = .error e := rfl

@[simp] theorem settle_ok (s : State) : settle (.ok s) = .next s := rfl

@[simp] theorem settle_error (e : Fault) : settle (.error e) = .fault e := rfl

@[simp] theorem afterHook_eq (u : Unit) (s : State) : afterHook u s = s := rfl

@[simp] theorem nextOf_next (s : State) : nextOf (.next s) = some s := rfl

@[simp] theorem nextOf_fault (f : Fault) : nextOf (.fault f) = none := rfl

@[simp] theorem faultOf_next (s : State) : faultOf (.next s) = none := rfl

@[simp] theorem faultOf_fault (f : Fault) : faultOf (.fault f) = some f := rfl

/-! ## Values -/

@[simp] theorem valCell_ofCell (c : Cell) : valCell (Val.ofCell c) = c := by cases c <;> rfl

@[simp] theorem valWord_ofWord (w : Option Word) : valWord (Val.ofWord w) = w := by cases w <;> rfl

@[simp] theorem valBit_ofBit (b : Option Bool) : valBit (Val.ofBit b) = b := by cases b <;> rfl

@[simp] theorem valWord_ofCell (c : Cell) : valWord (Val.ofCell c) = c.map (·.zeroExtend 16) := by cases c <;> rfl

@[simp] theorem valCell_byte (b : Byte) : valCell (.byte b) = some b := rfl

@[simp] theorem valCell_undef : valCell .undef = none := rfl

@[simp] theorem valWord_byte (b : Byte) : valWord (.byte b) = some (b.zeroExtend 16) := rfl

@[simp] theorem valWord_word (w : Word) : valWord (.word w) = some w := rfl

@[simp] theorem valWord_undef : valWord .undef = none := rfl

@[simp] theorem valBit_bit (b : Bool) : valBit (.bit b) = some b := rfl

/-! ## putCell -/

@[simp] theorem putCell_store (k : Block) (p : Nat) (v : Cell) (s : State) :
    (putCell k p v s).store = s.store.write p v := rfl

@[simp] theorem putCell_pc (k : Block) (p : Nat) (v : Cell) (s : State) : (putCell k p v s).pc = s.pc := rfl

@[simp] theorem putCell_uflags (k : Block) (p : Nat) (v : Cell) (s : State) :
    (putCell k p v s).uflags = (s.uflags && !(isStatus k p && v.isSome)) := rfl

/-! ## putData -/

@[simp] theorem putData_store (a : Nat) (v : Cell) (s : State) : (putData a v s).store = s.store.write a v := rfl

@[simp] theorem putData_pc (a : Nat) (v : Cell) (s : State) : (putData a v s).pc = s.pc := rfl

@[simp] theorem putData_uflags (a : Nat) (v : Cell) (s : State) :
    (putData a v s).uflags = (s.uflags && !(a == 0xD0 && v.isSome)) := rfl

/-! ## putBit -/

@[simp] theorem putBit_pc (p b : Nat) (v : Option Bool) (s : State) : (putBit p b v s).pc = s.pc := by
  unfold putBit; split
  · rfl
  · split <;> rfl

@[simp] theorem putBit_uflags (p b : Nat) (v : Option Bool) (s : State) : (putBit p b v s).uflags = s.uflags := by
  unfold putBit; split
  · rfl
  · split <;> rfl

/-! ## writeFlags -/

@[simp] theorem writeFlags_pc (k : Block) (w : FlagWrite) (s : State) : (writeFlags k w s).pc = s.pc := rfl

@[simp] theorem writeFlags_uflags (k : Block) (w : FlagWrite) (s : State) :
    (writeFlags k w s).uflags = w.uflags s.uflags := rfl

/-! ## pushed -/

@[simp] theorem pushed_pc (p : Byte) (v : Cell) (s : State) : (pushed p v s).pc = s.pc := rfl

@[simp] theorem pushed_store (p : Byte) (v : Cell) (s : State) :
    (pushed p v s).store = (s.store.write 0x81 (some (p + 1))).write (p + 1).toNat v := rfl

@[simp] theorem popped_pc (s : State) : (popped s).2.pc = s.pc := by
  unfold popped; split <;> rfl

/-! ## Small reads -/

theorem psw_eq (s : State) : psw s = s.store.read 0xD0 := rfl

theorem acc_eq (s : State) : acc s = s.store.read 0xE0 := rfl

theorem stackPtr_eq (s : State) : stackPtr s = s.store.read 0x81 := rfl

theorem dataCell_ne (a : Nat) (s : State) (h : a ≠ 0xD0) : dataCell a s = s.store.read a := by simp [dataCell, h]

end Sys2Proof.Machine
end

