-- ==== Sys2Proof/Laws/Ref.lean ====
section
/-! SUPPORT. What each shared operation does in REF, said once: data accesses, registers, operands, stack, PC. -/

namespace Sys2Proof.Machine

/-! ## Data cells after a data write -/

theorem dataCell_putData_same (a : Nat) (b : Byte) (s : State) : dataCell a (putData a (some b) s) = some b := by
  by_cases h : a = 0xD0 <;> simp [dataCell, h]

theorem dataCell_putData_none (a : Nat) (s : State) : dataCell a (putData a none s) = none := by simp [dataCell]

theorem dataCell_putData_ne {a q : Nat} (v : Cell) (s : State) (h : a ≠ q) :
    dataCell q (putData a v s) = dataCell q s := by
  by_cases hq : q = 0xD0
  · subst hq; simp [dataCell, Memory.read_write_ne _ _ h, h]
  · simp [dataCell, hq, Memory.read_write_ne _ _ h]

/-! ## The status register and single cells -/

@[simp] theorem statusCell_ref : statusCell ref = .ok 0xD0 := by decide

theorem statusOffset_ref : statusOffset ref = some 0xD0 := by decide

theorem statusOffset_refNarrow : statusOffset refNarrow = some 0xD0 := by decide

theorem isStatus_ref (p : Nat) : isStatus ref p = (p == 0xD0) := by
  rw [isStatus, statusOffset_ref]
  by_cases h : p = 0xD0
  · subst h; decide
  · rw [beq_eq_false_iff_ne.2 h, beq_eq_false_iff_ne]
    exact fun e => h (Option.some.inj e).symm

@[simp] theorem rawStatus_ref (s : State) : rawStatus ref s = psw s := by simp [rawStatus, statusOffset_ref, psw]

@[simp] theorem readCell_ref (p : Nat) (s : State) : readCell ref p s = dataCell p s := by
  simp [readCell, dataCell, isStatus_ref]

@[simp] theorem putCell_ref (p : Nat) (v : Cell) (s : State) : putCell ref p v s = putData p v s := by
  simp [putCell, putData, isStatus_ref]

/-- A flag write keeps or replaces the status byte, nothing else of STORE (R39). -/
theorem writeFlags_store (w : FlagWrite) (s : State) :
    (writeFlags ref w s).store = match psw s with
      | some b => s.store.write 0xD0 (some (w.byte refCfg b))
      | none => s.store := by
  simp only [writeFlags, statusOffset_ref, rawStatus_ref]
  cases psw s <;> rfl

@[simp] theorem setFlags_ref (w : FlagWrite) (s : State) : setFlags ref w s = .ok (writeFlags ref w s) := by
  rw [setFlags, statusCell_ref]; rfl

@[simp] theorem readFlag_ref (f : Flag) (s : State) : readFlag ref f s = .ok (flag ref f s) := by
  rw [readFlag, statusCell_ref]; rfl

/-! ## Segments -/

theorem resolve_iram : resolve ref .iram = .ok ⟨.iram, 0x00, 0x100, 0x00000⟩ := rfl
theorem resolve_sfr : resolve ref .sfr = .ok ⟨.sfr, 0x80, 0x80, 0x00000⟩ := rfl
theorem resolve_xram : resolve ref .xram = .ok ⟨.xram, 0x0000, 0x10000, 0x00100⟩ := rfl
theorem resolve_code : resolve ref .code = .ok ⟨.code, 0x0000, 0x10000, 0x10100⟩ := rfl

/-- Segment selection in REF (R66): the threshold governs every access. -/
theorem sel_ref (t : SegTag) (kind : AccessKind) (a : Nat) :
    sel ref t kind a = if 0x80 ≤ a then .sfr else t.segName := by
  have h1 : ref.cfg.sfrThreshold = 0x80 := rfl
  have h2 : inScope ref.cfg.threshScope kind = true := by cases kind <;> rfl
  simp [sel, h1, h2]

/-- An IDATA access to an address below 0x100 is to the physical byte of that number (R24, R67). -/
theorem locate_idata (kind : AccessKind) (a : Nat) (h : a < 0x100) : locate ref (sel ref .idata kind a) a = .ok a := by
  rw [sel_ref]
  by_cases h1 : 0x80 ≤ a
  · simp [h1, locate, resolve_sfr]; omega
  · simp [h1, locate, SegTag.segName, resolve_iram]; omega

/-- The offset of an XDATA access, or its StoreFault (R67). -/
theorem locate_xdata (kind : AccessKind) (a : Word) :
    locate ref (sel ref .xdata kind a.toNat) a.toNat = match xdataOffset a with
      | some p => .ok p
      | none => .error (.storeFault .sfr a.toNat) := by
  have ha := a.isLt
  rw [sel_ref]
  unfold xdataOffset
  by_cases h1 : a.toNat < 0x80
  · have : ¬ 0x80 ≤ a.toNat := by omega
    simp only [h1, this, if_true, if_false, locate, SegTag.segName, resolve_xram]
    rw [if_pos (by omega)]; simp [Nat.add_comm]
  · have h2 : 0x80 ≤ a.toNat := by omega
    simp only [h1, h2, if_true, if_false, locate, resolve_sfr]
    by_cases h3 : a.toNat < 0x100
    · rw [if_pos (by simp; omega), if_pos h3]; simp
    · rw [if_neg (by omega), if_neg h3]

/-- The offset of a CODE data access, or its StoreFault (R67). -/
theorem locate_code (kind : AccessKind) (a : Word) :
    locate ref (sel ref .code kind a.toNat) a.toNat = match codeDataOffset a with
      | some p => .ok p
      | none => .error (.storeFault .sfr a.toNat) := by
  have ha := a.isLt
  rw [sel_ref]
  unfold codeDataOffset
  by_cases h1 : a.toNat < 0x80
  · have : ¬ 0x80 ≤ a.toNat := by omega
    simp only [h1, this, if_true, if_false, locate, SegTag.segName, resolve_code]
    rw [if_pos (by omega)]; simp [Nat.add_comm]
  · have h2 : 0x80 ≤ a.toNat := by omega
    simp only [h1, h2, if_true, if_false, locate, resolve_sfr]
    by_cases h3 : a.toNat < 0x100
    · rw [if_pos (by simp; omega), if_pos h3]; simp
    · rw [if_neg (by omega), if_neg h3]

/-! ## Data accesses -/

theorem memRead_idata (kind : AccessKind) (a : Nat) (s : State) (h : a < 0x100) :
    memRead ref (sel ref .idata kind a) a s = .ok (dataCell a s) := by simp [memRead, locate_idata kind a h]

theorem memWrite_idata (kind : AccessKind) (a : Nat) (v : Cell) (s : State) (h : a < 0x100) :
    memWrite ref (sel ref .idata kind a) a v s = .ok (putData a v s) := by simp [memWrite, locate_idata kind a h]

theorem memReadBit_idata (a b : Nat) (s : State) (h : a < 0x100) :
    memReadBit ref (sel ref .idata .bit a) a b s = .ok (readBit ref a b s) := by
  simp [memReadBit, locate_idata .bit a h]

theorem memWriteBit_idata (a b : Nat) (v : Option Bool) (s : State) (h : a < 0x100) :
    memWriteBit ref (sel ref .idata .bit a) a b v s = .ok (putBit a b v s) := by
  simp [memWriteBit, locate_idata .bit a h]

/-! ## The banked registers -/

theorem bank_le (b : Byte) : (b &&& 0x18).toNat ≤ 0x18 := by
  rw [BitVec.toNat_and]; exact Nat.and_le_right

@[simp] theorem bankedAddress_ref (n : Nat) (s : State) : bankedAddress ref n s = rnAddr n s := by
  simp [bankedAddress, rnAddr]; rfl

/-- The selected bank's register lies in the first 0x20 bytes (R30). -/
theorem rnAddr_lt {n : Nat} {s : State} {p : Nat} (hn : n < 8) (h : rnAddr n s = some p) : p < 0x20 := by
  unfold rnAddr at h
  cases hb : psw s with
  | none => simp [hb] at h
  | some b => 
    have := bank_le b
    simp only [hb, Option.map_some, Option.some.injEq] at h
    omega

theorem rnAddr_congr {n : Nat} {s t : State} (h : psw t = psw s) : rnAddr n t = rnAddr n s := by simp [rnAddr, h]

theorem rnCell_dataCell {n : Nat} (hn : n < 8) (s : State) : (rnAddr n s).bind (dataCell · s) = rnCell n s := by
  unfold rnCell
  cases h : rnAddr n s with
  | none => rfl
  | some p =>
    have := rnAddr_lt hn h
    simp only [Option.bind_some]
    exact dataCell_ne p s (by omega)

/-! ## Registers -/

theorem directAddress_ref (d : RegDesc) (base : Nat) (s : State) :
    directAddress ref d base s = .ok (if d.banked then rnAddr base s else some base) := by
  cases h : d.banked <;> simp [directAddress, h]

/-- A one-byte `Direct` register of REF reads the cell at its address, `UNDEF` where that is (R170, R173). -/
theorem regGetDefault_byte (idx a : Nat) (name : String) (banked : Bool) (r : Option Nat) (s : State)
    (h : ∀ p, (if banked then rnAddr a s else some a) = some p → p < 0x100) :
    regGetDefault ref idx ⟨name, 1, .direct a, banked, r⟩ s =
      .ok (Val.ofCell ((if banked then rnAddr a s else some a).bind (dataCell · s))) := by
  simp only [regGetDefault, directAddress_ref, except_ok_bind]
  cases hp : (if banked then rnAddr a s else some a) with
  | none => rfl
  | some p =>
    change (do let cs ← (do let c ← memRead ref (sel ref .idata .regStorage p) p s; _); _) = _
    rw [memRead_idata .regStorage p s (h p hp)]
    rfl

/-- A write to a one-byte `Direct` register of REF puts the cell at its address (R171, R173). -/
theorem regSetDefault_byte (idx a : Nat) (name : String) (banked : Bool) (r : Option Nat) (v : Val) (s : State)
    (h : ∀ p, (if banked then rnAddr a s else some a) = some p → p < 0x100) :
    regSetDefault ref idx ⟨name, 1, .direct a, banked, r⟩ v s =
      match if banked then rnAddr a s else some a with
      | some p => .ok (putData p (valCell v) s)
      | none => .error (.undefinedAddress (.register idx)) := by
  simp only [regSetDefault, disassemble, directAddress_ref, except_ok_bind]
  cases hp : (if banked then rnAddr a s else some a) with
  | none => rfl
  | some p =>
    change (do let s ← memWrite ref (sel ref .idata .regStorage p) p (valCell v) s; _) = _
    rw [memWrite_idata .regStorage p _ s (h p hp)]
    rfl

theorem register_rn (n : Nat) (hn : n < 8) :
    ref.cfg.registers[n]? = some ⟨"R" ++ Nat.repr n, 1, .direct n, true, none⟩ := by
  revert hn; revert n; decide

theorem regGet_rn (n : Nat) (hn : n < 8) (s : State) : regGet ref n s = .ok (Val.ofCell (rnCell n s)) := by
  rw [regGet, register_rn n hn, ← rnCell_dataCell hn]
  exact regGetDefault_byte n n _ true none s fun p h => by have := rnAddr_lt hn h; omega

theorem regGet_acc (s : State) : regGet ref 8 s = .ok (Val.ofCell (acc s)) :=
  regGetDefault_byte 8 0xE0 "A" false (some 0x00) s (by simp)

theorem regGet_sp (s : State) : regGet ref 10 s = .ok (Val.ofCell (stackPtr s)) :=
  regGetDefault_byte 10 0x81 "SP" false (some 0x07) s (by simp)

theorem regGet_psw (s : State) : regGet ref 9 s = .ok (Val.ofCell (dataCell 0xD0 s)) :=
  regGetDefault_byte 9 0xD0 "PSW" false (some 0x00) s (by simp)

theorem regGet_dptr (s : State) : regGet ref 11 s = .ok (Val.ofWord (dptr s)) := by
  change regGetDefault ref 11 ⟨"DPTR", 2, .split [0x83, 0x82] true, false, some 0x0000⟩ s = _
  simp only [regGetDefault, readRegBytes, List.mapM_cons, List.mapM_nil, if_true]
  rw [memRead_idata .regStorage 0x83 s (by decide), memRead_idata .regStorage 0x82 s (by decide),
    dataCell_ne _ _ (by decide), dataCell_ne _ _ (by decide), dptr]
  cases s.store.read 0x83 <;> cases s.store.read 0x82 <;> rfl

theorem regGet_pc (s : State) : regGet ref 12 s = .ok (Val.ofWord s.pc) := rfl

theorem regSet_rn (n : Nat) (hn : n < 8) (v : Val) (s : State) :
    regSet ref n v s = match rnAddr n s with
      | some p => .ok (putData p (valCell v) s)
      | none => .error (.undefinedAddress (.register n)) := by
  rw [regSet, register_rn n hn]
  exact regSetDefault_byte n n ("R" ++ Nat.repr n) true none v s fun p h => by have := rnAddr_lt hn h; omega

theorem regSet_acc (v : Val) (s : State) : regSet ref 8 v s = .ok (putData 0xE0 (valCell v) s) :=
  regSetDefault_byte 8 0xE0 "A" false (some 0x00) v s (by simp)

theorem regSet_sp (v : Val) (s : State) : regSet ref 10 v s = .ok (putData 0x81 (valCell v) s) :=
  regSetDefault_byte 10 0x81 "SP" false (some 0x07) v s (by simp)

/-- `x[DPTR] <- v` (R175): bits 15:8 to 0x83, then bits 7:0 to 0x82. -/
theorem regSet_dptr (v : Val) (s : State) :
    regSet ref 11 v s = .ok (putData 0x82 ((valWord v).map (·.extractLsb' 0 8))
      (putData 0x83 ((valWord v).map (·.extractLsb' 8 8)) s)) := by
  have key : ∀ h l : Cell, writeRegBytes ref [(0x83, h), (0x82, l)] s = .ok (putData 0x82 l (putData 0x83 h s)) := by
    intro h l
    change (do
      let s ← memWrite ref (sel ref .idata .regStorage 0x83) 0x83 h s
      let s ← memWrite ref (sel ref .idata .regStorage 0x82) 0x82 l s
      _) = _
    rw [memWrite_idata .regStorage 0x83 _ s (by decide), except_ok_bind,
      memWrite_idata .regStorage 0x82 _ _ (by decide)]
    rfl
  change regSetDefault ref 11 ⟨"DPTR", 2, .split [0x83, 0x82] true, false, some 0x0000⟩ v s = _
  simp only [regSetDefault, disassemble]
  cases valWord v with
  | none => exact key none none
  | some w => exact key _ _

theorem regSet_pc (v : Val) (s : State) : regSet ref 12 v s = .ok { s with pc := valWord v } := rfl

@[simp] theorem setPc_ref (t : Option Word) (s : State) : setPc ref t s = .ok { s with pc := t } := by
  cases t <;> rfl

/-! ## Operands -/

/-- The context of an IDATA form. -/
abbrev Ctx.idata (x : Ctx) : Prop := x.seg = .idata

theorem getAt_idata {x : Ctx} (hx : x.idata) (kind : AccessKind) (a : Byte) (s : State) :
    getAt ref x kind (some (a.zeroExtend 16)) s = .ok (Val.ofCell (dataCell a.toNat s)) := by
  have ha := a.isLt
  have he : (a.zeroExtend 16).toNat = a.toNat := by simp; omega
  simp only [getAt, hx, he]
  rw [memRead_idata kind _ s (by omega)]
  simp

theorem setAt_idata {x : Ctx} (hx : x.idata) (pos : Nat) (kind : AccessKind) (a : Byte) (v : Val) (s : State) :
    setAt ref x pos kind (some (a.zeroExtend 16)) v s = .ok (putData a.toNat (valCell v) s) := by
  have ha := a.isLt
  have he : (a.zeroExtend 16).toNat = a.toNat := by simp; omega
  simp only [setAt, hx, he]
  rw [memWrite_idata kind _ _ s (by omega)]

theorem pointer_rn (n : Nat) (hn : n < 8) (s : State) :
    pointer ref n s = .ok ((rnCell n s).map (·.zeroExtend 16)) := by
  simp [pointer, regGet_rn n hn s]

theorem pointer_dptr (s : State) : pointer ref 11 s = .ok (dptr s) := by
  simp [pointer, regGet_dptr]

/-- The operand of a byte location. -/
def ByteLoc.operand : ByteLoc → Operand
  | .acc => .reg 8
  | .dir a => .dir a
  | .ind i => .ind i.val
  | .rn n => .reg n.val

/-- The operand of a byte source. -/
def ByteSrc.operand : ByteSrc → Operand
  | .imm b => .imm8 b
  | .loc l => l.operand

/-- What a read of a byte location gives in an IDATA form. -/
theorem getOp_loc {x : Ctx} (hx : x.idata) (l : ByteLoc) (s : State) :
    getOp ref x l.operand s = .ok (Val.ofCell (l.cell s)) := by
  cases l with
  | acc => simpa [ByteLoc.operand, ByteLoc.cell, ByteLoc.offset, dataCell, getOp, acc] using regGet_acc s
  | dir a => simpa [ByteLoc.operand, ByteLoc.cell, ByteLoc.offset, getOp] using getAt_idata hx .direct a s
  | ind i =>
    have hi : i.val < 8 := by omega
    simp only [ByteLoc.operand, ByteLoc.cell, ByteLoc.offset, getOp, pointer_rn _ hi, except_ok_bind]
    cases h : rnCell i.val s with
    | none => rfl
    | some p => simpa using getAt_idata hx .indirect p s
  | rn n =>
    simp only [ByteLoc.operand, ByteLoc.cell, ByteLoc.offset, getOp, regGet_rn _ n.isLt,
      rnCell_dataCell n.isLt]

theorem getOp_src {x : Ctx} (hx : x.idata) (c : ByteSrc) (s : State) :
    getOp ref x c.operand s = .ok (Val.ofCell (c.cell s)) := by
  cases c with
  | imm b => rfl
  | loc l => exact getOp_loc hx l s

/-- What a write of a byte location does in an IDATA form: a data write at its offset, or UndefinedAddress. -/
theorem setOp_loc {x : Ctx} (hx : x.idata) (pos : Nat) (l : ByteLoc) (v : Val) (s : State) :
    setOp ref x pos l.operand v s = match l.offset s with
      | some p => .ok (putData p (valCell v) s)
      | none => .error (.undefinedAddress (l.access pos)) := by
  cases l with
  | acc => exact regSet_acc v s
  | dir a => exact setAt_idata hx pos .direct a v s
  | ind i =>
    have hi : i.val < 8 := by omega
    simp only [ByteLoc.operand, ByteLoc.offset, setOp, pointer_rn _ hi, except_ok_bind]
    cases h : rnCell i.val s with
    | none => rfl
    | some p => exact setAt_idata hx pos .indirect p v s
  | rn n => exact regSet_rn n.val n.isLt v s

/-- The offset of a byte location is one of the first 0x100. -/
theorem ByteLoc.offset_lt {l : ByteLoc} {s : State} {p : Nat} (h : l.offset s = some p) : p < 0x100 := by
  cases l with
  | acc => simp [offset] at h; omega
  | dir a => have := a.isLt; simp [offset] at h; omega
  | ind i =>
    simp only [offset, Option.map_eq_some_iff] at h
    obtain ⟨b, -, rfl⟩ := h
    exact b.isLt
  | rn n => have := rnAddr_lt n.isLt h; omega

theorem bitByte_ref (b : Byte) : bitByte ref (b &&& 0xF8) = bitAddr b := by revert b; decide

theorem bitNum_eq (b : Byte) : (b.extractLsb' 0 3).toNat = bitNum b := by simp [bitNum]

theorem bitAddr_lt (b : Byte) : bitAddr b < 0x100 := by revert b; decide

theorem getOp_bit {x : Ctx} (hx : x.idata) (b : Byte) (s : State) :
    getOp ref x (Operand.ofBitaddr b false) s = .ok (Val.ofBit (bitCell b s)) := by
  simp only [Operand.ofBitaddr, getOp, bitByte_ref, bitNum_eq, hx]
  rw [memReadBit_idata _ _ s (bitAddr_lt b)]
  simp [bitCell]

theorem getOp_nbit {x : Ctx} (hx : x.idata) (b : Byte) (s : State) :
    getOp ref x (Operand.ofBitaddr b true) s = .ok (Val.ofBit (aluBnot (bitCell b s))) := by
  simp only [Operand.ofBitaddr, getOp, bitByte_ref, bitNum_eq, hx]
  rw [memReadBit_idata _ _ s (bitAddr_lt b)]
  cases h : bitCell b s <;> simp_all [bitCell, aluBnot]

theorem setOp_bit {x : Ctx} (hx : x.idata) (pos : Nat) (b : Byte) (v : Val) (s : State) :
    setOp ref x pos (Operand.ofBitaddr b false) v s = .ok (putBit (bitAddr b) (bitNum b) (valBit v) s) := by
  simp only [Operand.ofBitaddr, setOp, bitByte_ref, bitNum_eq, hx]
  exact memWriteBit_idata _ _ _ s (bitAddr_lt b)

/-- The address of an accumulator-indexed operand (R155). -/
theorem indexedAddress_ref (x : Ctx) (baseIdx : Nat) (h : baseIdx = 11 ∨ baseIdx = 12) (s : State) :
    indexedAddress ref x baseIdx s = .ok (accPlus (if baseIdx = 12 then some x.next else dptr s) s) := by
  have h8 : ref.cfg.accReg = 8 := rfl
  have h12 : ref.cfg.pcReg = 12 := rfl
  rcases h with rfl | rfl
  · simp only [indexedAddress, h8, h12, regGet_acc, pointer_dptr, except_ok_bind]
    cases ha : acc s <;> cases dptr s <;> simp [accPlus, ha]
  · simp only [indexedAddress, h8, h12, regGet_acc, except_ok_bind, if_true]
    cases ha : acc s <;> simp [accPlus, ha]

/-! ## Stack -/

/-- `push` (R212). -/
theorem push_ref (v : Cell) (s : State) :
    push ref v s = match stackPtr s with
      | some p => .ok (pushed p v s)
      | none => .error (.undefinedAddress .stack) := by
  have h10 : ref.cfg.spReg = 10 := rfl
  simp only [push, h10, regGet_sp, except_ok_bind, valCell_ofCell]
  cases h : stackPtr s with
  | none => rfl
  | some p =>
    have h1 : spPushed ref.cfg p = p + 1 := rfl
    have hp := (p + 1).isLt
    simp only [h1, regSet_sp, except_ok_bind, valCell_byte]
    exact memWrite_idata .stack _ _ _ (by omega)

/-- `pop` (R213). -/
theorem pop_ref (s : State) : pop ref s = .ok (popped s) := by
  have h10 : ref.cfg.spReg = 10 := rfl
  simp only [pop, h10, regGet_sp, except_ok_bind, valCell_ofCell, popped]
  cases h : stackPtr s with
  | none => rfl
  | some p =>
    have h1 : spPopped ref.cfg p = p - 1 := rfl
    have hp := p.isLt
    simp only [h1, regSet_sp, except_ok_bind, valCell_byte]
    rw [memRead_idata .stack _ _ (by omega)]
    rfl

/-! ## Flags -/

theorem flag_ref (f : Flag) (s : State) :
    flag ref f s = if s.uflags then none else (psw s).map (·.getLsbD (f.pos refCfg)) := by
  simp [flag]; rfl

/-- The write of the carry with the parity of A (R205). -/
theorem writeCarry_ref (c : Option Bool) (s : State) :
    writeCarry ref c s = .ok (writeFlags ref { c := some c, p := some ((acc s).map parity) } s) := by
  have h8 : ref.cfg.accReg = 8 := rfl
  simp only [writeCarry, h8, regGet_acc, except_ok_bind]
  cases acc s <;> rfl

/-! ## The run of one form -/

/-- The outcome of a form at `va` from what its handler ended in (R193, R410). -/
def conclude (va : Word) (len : Nat) : Handled → Host.Outcome State Fault Refusal
  | .ok (s', .next) => .next { s' with pc := some (va + BitVec.ofNat 16 len) }
  | .ok (s', .goto t) => .next { s' with pc := t }
  | .error e => .fault e

@[simp] theorem conclude_next (va : Word) (len : Nat) (s : State) :
    conclude va len (.ok (s, .next)) = .next { s with pc := some (va + BitVec.ofNat 16 len) } := rfl

@[simp] theorem conclude_goto (va : Word) (len : Nat) (s : State) (t : Option Word) :
    conclude va len (.ok (s, .goto t)) = .next { s with pc := t } := rfl

@[simp] theorem conclude_error (va : Word) (len : Nat) (e : Fault) : conclude va len (.error e) = .fault e := rfl

/-- Everything the run of a form can do at a defined PC: the handler's error, or its state with the PC it decided. -/
theorem runForm_some {s : State} {va : Word} (h : s.pc = some va) (iid : Iid) (len : Nat)
    (f : Ctx → State → Handled) : runForm iid len f s = conclude va len (f ⟨va, len, refSegTag iid.num⟩ s) := by
  simp only [runForm, h, transact, ctxOf, finish]
  change settle (match f ⟨va, len, refSegTag iid.num⟩ s with | .ok r => _ | .error e => _) = _
  rcases f ⟨va, len, refSegTag iid.num⟩ s with e | ⟨s', fl⟩
  · rfl
  · cases fl <;> simp [Ctx.next]

/-- A form at an undefined PC stops. -/
theorem runForm_none {s : State} (h : s.pc = none) (iid : Iid) (len : Nat) (f : Ctx → State → Handled) :
    runForm iid len f s = .fault (.undefinedFetch none) := by simp [runForm, h]

end Sys2Proof.Machine
end

