-- ==== Sys2Proof/Laws/Handlers.lean ====
section
/-! SUPPORT. One lemma per handler in REF: everything it can do with the operands of its forms, and the one lemma that
turns an instruction into the run of its handler. -/

namespace Sys2Proof.Machine

/-- The result of a byte write at a location, as a handler ends with it. -/
def wroteLoc (l : ByteLoc) (pos : Nat) (v : Cell) (s : State) : Except Fault State :=
  match l.offset s with
  | some p => .ok (putData p v s)
  | none => .error (.undefinedAddress (l.access pos))

theorem setOp_wroteLoc {x : Ctx} (hx : x.idata) (pos : Nat) (l : ByteLoc) (v : Val) (s : State) :
    setOp ref x pos l.operand v s = wroteLoc l pos (valCell v) s := setOp_loc hx pos l v s

/-! ## Locations across writes -/

theorem psw_putData_ne (a : Nat) (v : Cell) (s : State) (h : a ≠ 0xD0) : psw (putData a v s) = psw s := by
  simp [psw, Memory.read_write_ne _ _ h]

theorem rnCell_putData_ne {n : Nat} (hn : n < 8) (a : Nat) (v : Cell) (s : State) (h : a ≠ 0xD0) (ha : 0x20 ≤ a) :
    rnCell n (putData a v s) = rnCell n s := by
  unfold rnCell
  rw [rnAddr_congr (psw_putData_ne a v s h)]
  cases hr : rnAddr n s with
  | none => rfl
  | some p =>
    have := rnAddr_lt hn hr
    simpa using Memory.read_write_ne s.store v (show a ≠ p by omega)

/-- A write of A moves no location (R185, R250). -/
theorem offset_putAcc (l : ByteLoc) (v : Cell) (s : State) : l.offset (putData 0xE0 v s) = l.offset s := by
  cases l with
  | acc => rfl
  | dir a => rfl
  | ind i => simp [ByteLoc.offset, rnCell_putData_ne (show i.val < 8 by omega) 0xE0 v s (by decide) (by decide)]
  | rn n => exact rnAddr_congr (psw_putData_ne 0xE0 v s (by decide))

/-! ## Data transfer -/

theorem handleMov_ref {x : Ctx} (hx : x.idata) (l : ByteLoc) (c : ByteSrc) (s : State) :
    handleMov ref x l.operand c.operand s = fall (wroteLoc l 0 (c.cell s) s) := by
  simp [handleMov, getOp_src hx, setOp_wroteLoc hx]

theorem handleMov_dptr (x : Ctx) (w : Word) (s : State) :
    handleMov ref x (.reg 11) (.imm16 w) s =
      .ok (putData 0x82 (some (w.extractLsb' 0 8)) (putData 0x83 (some (w.extractLsb' 8 8)) s), .next) := by
  simp [handleMov, getOp, setOp, regSet_dptr]

/-- A read through an XDATA pointer (R72, R236). -/
theorem getAt_xdata {x : Ctx} (hx : x.seg = .xdata) (kind : AccessKind) (a : Option Word) (s : State) :
    getAt ref x kind a s = match a with
      | none => .ok .undef
      | some a => match xdataOffset a with
        | some p => .ok (Val.ofCell (dataCell p s))
        | none => .error (.storeFault .sfr a.toNat) := by
  cases a with
  | none => rfl
  | some a =>
    simp only [getAt, hx, memRead, locate_xdata]
    cases xdataOffset a <;> simp

/-- A write through an XDATA pointer (R72, R236). -/
theorem setAt_xdata {x : Ctx} (hx : x.seg = .xdata) (pos : Nat) (kind : AccessKind) (a : Option Word) (v : Val)
    (s : State) : setAt ref x pos kind a v s = match a with
      | none => .error (.undefinedAddress (.operand pos))
      | some a => match xdataOffset a with
        | some p => .ok (putData p (valCell v) s)
        | none => .error (.storeFault .sfr a.toNat) := by
  cases a with
  | none => rfl
  | some a =>
    simp only [setAt, hx, memWrite, locate_xdata]
    cases xdataOffset a <;> simp

/-- A read through a CODE address (R72, R241). -/
theorem getAt_code {x : Ctx} (hx : x.seg = .code) (kind : AccessKind) (a : Option Word) (s : State) :
    getAt ref x kind a s = match a with
      | none => .ok .undef
      | some a => match codeDataOffset a with
        | some p => .ok (Val.ofCell (dataCell p s))
        | none => .error (.storeFault .sfr a.toNat) := by
  cases a with
  | none => rfl
  | some a =>
    simp only [getAt, hx, memRead, locate_code]
    cases codeDataOffset a <;> simp

theorem handlePush_ref {x : Ctx} (hx : x.idata) (a : Byte) (s : State) :
    handlePush ref x (.dir a) s = fall (match stackPtr s with
      | some p => .ok (pushed p (dataCell a.toNat s) s)
      | none => .error (.undefinedAddress .stack)) := by
  have h := getOp_loc hx (.dir a) s
  simp only [ByteLoc.operand, ByteLoc.cell, ByteLoc.offset, Option.bind_some] at h
  cases hp : stackPtr s <;> simp only [handlePush, h, push_ref, except_ok_bind, valCell_ofCell, hp]

theorem handlePop_ref {x : Ctx} (hx : x.idata) (a : Byte) (s : State) :
    handlePop ref x (.dir a) s = .ok (putData a.toNat (popped s).1 (popped s).2, .next) := by
  have h := setOp_loc hx 0 (.dir a) (Val.ofCell (popped s).1) (popped s).2
  simp only [ByteLoc.operand, ByteLoc.offset] at h
  simp [handlePop, pop_ref, h]

theorem handleXch_ref {x : Ctx} (hx : x.idata) (l : ByteLoc) (s : State) :
    handleXch ref x (.reg 8) l.operand s = match l.offset s with
      | some p => .ok (putData p (acc s) (putData 0xE0 (l.cell s) s), .next)
      | none => .error (.undefinedAddress (l.access 1)) := by
  have h1 := getOp_loc hx .acc s
  have h2 : ∀ v, setOp ref x 0 (.reg 8) v s = .ok (putData 0xE0 (valCell v) s) := fun v => setOp_loc hx 0 .acc v s
  simp only [ByteLoc.operand, ByteLoc.cell, ByteLoc.offset, Option.bind_some, dataCell_ne 0xE0 s (by decide)] at h1
  simp only [handleXch, h1, getOp_loc hx, h2, except_ok_bind, setOp_loc hx, offset_putAcc, valCell_ofCell]
  cases l.offset s <;> rfl

/-! ## Arithmetic and logic -/

theorem storeResult_ref {x : Ctx} (hx : x.idata) (l : ByteLoc) (r : Val × FlagWrite) (s : State) :
    storeResult ref x l.operand r s = match l.offset s with
      | some p => .ok (writeFlags ref r.2 (putData p (valCell r.1) s), .next)
      | none => .error (.undefinedAddress (l.access 0)) := by
  simp only [storeResult, setOp_loc hx]
  cases l.offset s <;> rfl

theorem arith_cells (f : (w : Nat) → BitVec w → BitVec w → Bool → AluOut w) (a b : Cell) (c : Option Bool) :
    (valCell (arith f (Val.ofCell a) (Val.ofCell b) c).1, (arith f (Val.ofCell a) (Val.ofCell b) c).2) =
      match a, b, c with
      | some x, some y, some ci => (some (f 8 x y ci).r, (f 8 x y ci).flags)
      | _, _, _ => (none, undefFlags) := by
  cases a <;> cases b <;> cases c <;> simp [arith, Val.ofCell, atWidth, valWidth, valOfBits]

theorem logic_cells (f : (w : Nat) → BitVec w → BitVec w → BitVec w) (a b : Cell) :
    (valCell (logic f (Val.ofCell a) (Val.ofCell b)).1, (logic f (Val.ofCell a) (Val.ofCell b)).2) =
      match a, b with
      | some x, some y => (some (f 8 x y), { p := some (some (parity (f 8 x y))) })
      | _, _ => (none, { p := some none }) := by
  cases a <;> cases b <;> simp [logic, Val.ofCell, atWidth, valWidth, valOfBits]

@[simp] theorem aluInc_cell (a : Cell) : aluInc (Val.ofCell a) = Val.ofCell (a.map (· + 1)) := by
  cases a with
  | none => rfl
  | some b => simp [aluInc, unary, Val.ofCell, atWidth, valWidth, valOfBits]; rfl

@[simp] theorem aluDec_cell (a : Cell) : aluDec (Val.ofCell a) = Val.ofCell (a.map (· - 1)) := by
  cases a with
  | none => rfl
  | some b => simp [aluDec, unary, Val.ofCell, atWidth, valWidth, valOfBits]; rfl

@[simp] theorem aluNot_cell (a : Cell) : aluNot (Val.ofCell a) = Val.ofCell (a.map (~~~·)) := by
  cases a with
  | none => rfl
  | some b => simp [aluNot, unary, Val.ofCell, atWidth, valWidth, valOfBits]; rfl

@[simp] theorem aluInc_word (a : Option Word) : aluInc (Val.ofWord a) = Val.ofWord (a.map (· + 1)) := by
  cases a with
  | none => rfl
  | some b => simp [aluInc, unary, Val.ofWord, atWidth, valWidth, valOfBits]; rfl

@[simp] theorem parityOf_cell (a : Cell) : parityOf (Val.ofCell a) = a.map parity := by cases a <;> rfl

/-- The shape of every handler that reads A and a source, and stores a result and flags. -/
theorem binary_ref {x : Ctx} (hx : x.idata) (l : ByteLoc) (c : ByteSrc) (f : Val → Val → Val × FlagWrite) (s : State) :
    (do
      let a ← getOp ref x l.operand s
      let b ← getOp ref x c.operand s
      storeResult ref x l.operand (f a b) s) =
    match l.offset s with
      | some p => .ok (writeFlags ref (f (Val.ofCell (l.cell s)) (Val.ofCell (c.cell s))).2
          (putData p (valCell (f (Val.ofCell (l.cell s)) (Val.ofCell (c.cell s))).1) s), .next)
      | none => .error (.undefinedAddress (l.access 0)) := by
  simp only [getOp_loc hx, getOp_src hx, except_ok_bind, storeResult_ref hx]

/-- The forms that read one location and write it back without flags. -/
theorem update_ref {x : Ctx} (hx : x.idata) (l : ByteLoc) (f : Val → Val) (s : State) :
    (do
      let v ← getOp ref x l.operand s
      fall (setOp ref x 0 l.operand (f v) s)) = fall (wroteLoc l 0 (valCell (f (Val.ofCell (l.cell s)))) s) := by
  simp only [getOp_loc hx, except_ok_bind, setOp_wroteLoc hx]

theorem handleInc_dptr (x : Ctx) (s : State) :
    handleInc ref x (.reg 11) s = .ok (putData 0x82 ((dptr s).map fun w => (w + 1).extractLsb' 0 8)
      (putData 0x83 ((dptr s).map fun w => (w + 1).extractLsb' 8 8) s), .next) := by
  simp [handleInc, getOp, setOp, regGet_dptr, regSet_dptr, Function.comp_def]

/-! ## Branches -/

/-- A branch decision with a relative target (R151, R218). -/
theorem branch_rel (k : Block) (x : Ctx) (c : Option Bool) (d : Int) (s : State) :
    branch k x c (.rel d) s = .ok (s, match c with
      | none => .goto none
      | some true => .goto (some (x.relTarget d))
      | some false => .next) := by
  cases c with
  | none => rfl
  | some b => cases b <;> simp [branch, jumpTo, getOp]

/-- The end of a branch: the PC is what the decision gives (R193, R218). -/
theorem conclude_branch (va : Word) (len : Nat) (seg : SegTag) (c : Option Bool) (d : Int) (s : State) :
    conclude va len (branch ref ⟨va, len, seg⟩ c (.rel d) s) =
      .next { s with pc := c.map fun b =>
        (if b then va + BitVec.ofNat 16 len + BitVec.ofInt 16 d else va + BitVec.ofNat 16 len) } := by
  rw [branch_rel]
  cases c with
  | none => rfl
  | some b => cases b <;> simp [Ctx.relTarget, Ctx.next]

/-- CMP on cells (R209). -/
theorem aluCmp_cell (a b : Cell) : aluCmp (Val.ofCell a) (Val.ofCell b) =
    a.bind fun a => b.map fun b => (decide (a ≠ b), decide (a.toNat < b.toNat)) := by
  cases a with
  | none => rfl
  | some a =>
    cases b with
    | none => rfl
    | some b =>
      have h : (a.zeroExtend 16 = b.zeroExtend 16) = (a = b) :=
        propext ⟨fun h => by bv_omega, fun h => by rw [h]⟩
      have hb : (b.zeroExtend 16).toNat = b.toNat := by have := b.isLt; simp; omega
      have ha : (a.zeroExtend 16).toNat = a.toNat := by have := a.isLt; simp; omega
      simp only [aluCmp, valWord_ofCell, Option.map_some, Option.bind_some, ha, hb, ne_eq, h]

theorem isZeroVal_cell (a : Cell) : isZeroVal (Val.ofCell a) = a.map (· == 0) := by
  cases a with
  | none => rfl
  | some b => revert b; decide

theorem pushReturn_ref (ra : Word) (s : State) :
    pushReturn ref ra s = push ref (some (ra.extractLsb' 0 8)) s >>= push ref (some (ra.extractLsb' 8 8)) := rfl

theorem popReturn_ref (s : State) :
    popReturn ref s = .ok (match (popped s).1, (popped (popped s).2).1 with
      | some h, some l => (some (h ++ l), (popped (popped s).2).2)
      | _, _ => (none, (popped (popped s).2).2)) := by
  have h : ref.cfg.retLowFirst = true := rfl
  simp only [popReturn, pop_ref, except_ok_bind, h, if_true]
  cases (popped s).1 <;> cases (popped (popped s).2).1 <;> rfl

/-! ## From an instruction to its handler -/

/-- Every instruction is the run of one form, with its iid and length (R192, R193). -/
theorem exec_runForm (i : Instr) : ∃ f : Ctx → State → Handled, ∀ s, exec i s = runForm i.iid i.length f s := by
  cases i <;> exact ⟨_, fun _ => rfl⟩

/-- An instruction that completes does so at a defined PC. -/
theorem exec_pc {i : Instr} {s t : State} (h : exec i s = .next t) : ∃ va, s.pc = some va := by
  obtain ⟨f, hf⟩ := exec_runForm i
  cases hp : s.pc with
  | some va => exact ⟨va, rfl⟩
  | none => rw [hf, runForm_none hp] at h; cases h

theorem exec_movForm {i : Instr} {l : ByteLoc} {c : ByteSrc} (h : movForm i = some (l, c)) (s : State) :
    exec i s = runForm .mov i.length (fun x => handleMov ref x l.operand c.operand) s := by
  cases i <;> first
    | (simp only [movForm, Option.some.injEq, Prod.mk.injEq] at h; obtain ⟨rfl, rfl⟩ := h; rfl)
    | (simp [movForm] at h)

theorem exec_xchForm {i : Instr} {l : ByteLoc} (h : xchForm i = some l) (s : State) :
    exec i s = runForm .xch i.length (fun x => handleXch ref x (.reg 8) l.operand) s := by
  cases i <;> first
    | (simp only [xchForm, Option.some.injEq] at h; obtain rfl := h; rfl)
    | (simp [xchForm] at h)

/-- The handler of an arithmetic operation. -/
def ArithOp.handler : ArithOp → Block → Ctx → Operand → Operand → State → Handled
  | .add => handleAdd
  | .addc => handleAddc
  | .subb => handleSubb

/-- The iid of an arithmetic operation. -/
def ArithOp.iid : ArithOp → Iid
  | .add => .add
  | .addc => .addc
  | .subb => .subb

theorem exec_arithForm {i : Instr} {op : ArithOp} {c : ByteSrc} (h : arithForm i = some (op, c)) (s : State) :
    exec i s = runForm op.iid i.length (fun x => op.handler ref x (.reg 8) c.operand) s := by
  cases i <;> first
    | (simp only [arithForm, Option.some.injEq, Prod.mk.injEq] at h; obtain ⟨rfl, rfl⟩ := h; rfl)
    | (simp [arithForm] at h)

/-- The handler of a logic operation. -/
def LogicOp.handler : LogicOp → Block → Ctx → Operand → Operand → State → Handled
  | .anl => handleAnl
  | .orl => handleOrl
  | .xrl => handleXrl

/-- The iid of a logic operation. -/
def LogicOp.iid : LogicOp → Iid
  | .anl => .anl
  | .orl => .orl
  | .xrl => .xrl

theorem exec_logicForm {i : Instr} {op : LogicOp} {l : ByteLoc} {c : ByteSrc} (h : logicForm i = some (op, l, c))
    (s : State) : exec i s = runForm op.iid i.length (fun x => op.handler ref x l.operand c.operand) s := by
  cases i <;> first
    | (simp only [logicForm, Option.some.injEq, Prod.mk.injEq] at h; obtain ⟨rfl, rfl, rfl⟩ := h; rfl)
    | (simp [logicForm] at h)

/-- An INC or DEC byte form is the run of its handler. -/
theorem exec_stepForm {i : Instr} {l : ByteLoc} {k : Byte} (h : stepForm i = some (l, k)) (s : State) :
    (k = 1 ∧ exec i s = runForm .inc i.length (fun x => handleInc ref x l.operand) s) ∨
    (k = -1 ∧ exec i s = runForm .dec i.length (fun x => handleDec ref x l.operand) s) := by
  cases i <;> first
    | (simp only [stepForm, Option.some.injEq, Prod.mk.injEq] at h; obtain ⟨rfl, rfl⟩ := h; left; constructor; decide; rfl)
    | (simp only [stepForm, Option.some.injEq, Prod.mk.injEq] at h; obtain ⟨rfl, rfl⟩ := h; right; constructor; decide; rfl)
    | (simp [stepForm] at h)

theorem exec_cjneForm {i : Instr} {l : ByteLoc} {c : ByteSrc} {d : Int} (h : cjneForm i = some (l, c, d)) (s : State) :
    exec i s = runForm .cjne i.length (fun x => handleCjne ref x l.operand c.operand (.rel d)) s := by
  cases i <;> first
    | (simp only [cjneForm, Option.some.injEq, Prod.mk.injEq] at h; obtain ⟨rfl, rfl, rfl⟩ := h; rfl)
    | (simp [cjneForm] at h)

theorem exec_djnzForm {i : Instr} {l : ByteLoc} {d : Int} (h : djnzForm i = some (l, d)) (s : State) :
    exec i s = runForm .djnz i.length (fun x => handleDjnz ref x l.operand (.rel d)) s := by
  cases i <;> first
    | (simp only [djnzForm, Option.some.injEq, Prod.mk.injEq] at h; obtain ⟨rfl, rfl⟩ := h; rfl)
    | (simp [djnzForm] at h)

/-- An instruction with a byte destination is of one of the five form families that have one. -/
theorem destForm_cases {i : Instr} {l : ByteLoc} {pos : Nat} (h : destForm i = some (l, pos)) :
    (pos = 0 ∧ ∃ c, movForm i = some (l, c)) ∨ (pos = 1 ∧ xchForm i = some l) ∨
    (pos = 0 ∧ ∃ op c, logicForm i = some (op, l, c)) ∨ (pos = 0 ∧ ∃ k, stepForm i = some (l, k)) ∨
    (pos = 0 ∧ ∃ d, djnzForm i = some (l, d)) := by
  cases i <;> simp_all [destForm, movForm, xchForm, logicForm, stepForm, djnzForm]

/-- The lengths of the forms are what their encodings take (R138). -/
theorem nextPc_eq (i : Instr) (va : Word) : nextPc i va = va + BitVec.ofNat 16 i.length := rfl

end Sys2Proof.Machine
end

