-- ==== Sys2Proof/Laws/PerInstr.lean ====
section
/-! SUPPORT. Statements about every instruction as syntax, one lemma per constructor: the encoded length (R90, R138), and
the agreement of an instruction with the ROM entry of its opcode byte (R94, R101, R110). -/

namespace Sys2Proof.Laws

/-- An encoding is the opcode byte and two bytes at most (R90). -/
def EncodedLength.Statement (i : Instr) : Prop := 1 ≤ i.length ∧ i.length ≤ 3 ∧ (encode i).head? = some i.opcodeByte

/-- What the ROM entry of a byte says when it is the entry of an iid with that many operands (R94). -/
abbrev RomAgrees.entryOf (b : Byte) (h : Iid) (nops : Nat) : Prop :=
  (RomEntry.ofWord (refRom b)).valid = true ∧ (RomEntry.ofWord (refRom b)).kind = false ∧
  (RomEntry.ofWord (refRom b)).iid = h.num ∧ (RomEntry.ofWord (refRom b)).mnem = h.mnem ∧
  (RomEntry.ofWord (refRom b)).cf = h.cf ∧ (RomEntry.ofWord (refRom b)).nops.toNat = nops

/-- The ROM entry of the opcode byte is valid and has the instruction's iid, mnemonic, control-flow flags and number of
operands (R94, R110). -/
def RomAgrees.Statement (i : Instr) : Prop := RomAgrees.entryOf i.opcodeByte i.iid i.operands.length

theorem EncodedLength.movAImm (imm : Byte) : EncodedLength.Statement (.movAImm imm) :=
  ⟨Nat.le_of_ble_eq_true rfl, Nat.le_of_ble_eq_true rfl, rfl⟩

theorem EncodedLength.movADir (a : Byte) : EncodedLength.Statement (.movADir a) :=
  ⟨Nat.le_of_ble_eq_true rfl, Nat.le_of_ble_eq_true rfl, rfl⟩

theorem EncodedLength.movAInd (i : Fin 2) : EncodedLength.Statement (.movAInd i) :=
  ⟨Nat.le_of_ble_eq_true rfl, Nat.le_of_ble_eq_true rfl, rfl⟩

theorem EncodedLength.movARn (n : Fin 8) : EncodedLength.Statement (.movARn n) :=
  ⟨Nat.le_of_ble_eq_true rfl, Nat.le_of_ble_eq_true rfl, rfl⟩

theorem EncodedLength.movRnA (n : Fin 8) : EncodedLength.Statement (.movRnA n) :=
  ⟨Nat.le_of_ble_eq_true rfl, Nat.le_of_ble_eq_true rfl, rfl⟩

theorem EncodedLength.movRnImm (n : Fin 8) (imm : Byte) : EncodedLength.Statement (.movRnImm n imm) :=
  ⟨Nat.le_of_ble_eq_true rfl, Nat.le_of_ble_eq_true rfl, rfl⟩

theorem EncodedLength.movRnDir (n : Fin 8) (a : Byte) : EncodedLength.Statement (.movRnDir n a) :=
  ⟨Nat.le_of_ble_eq_true rfl, Nat.le_of_ble_eq_true rfl, rfl⟩

theorem EncodedLength.movDirA (a : Byte) : EncodedLength.Statement (.movDirA a) :=
  ⟨Nat.le_of_ble_eq_true rfl, Nat.le_of_ble_eq_true rfl, rfl⟩

theorem EncodedLength.movDirImm (a : Byte) (imm : Byte) : EncodedLength.Statement (.movDirImm a imm) :=
  ⟨Nat.le_of_ble_eq_true rfl, Nat.le_of_ble_eq_true rfl, rfl⟩

theorem EncodedLength.movDirRn (a : Byte) (n : Fin 8) : EncodedLength.Statement (.movDirRn a n) :=
  ⟨Nat.le_of_ble_eq_true rfl, Nat.le_of_ble_eq_true rfl, rfl⟩

theorem EncodedLength.movDirInd (a : Byte) (i : Fin 2) : EncodedLength.Statement (.movDirInd a i) :=
  ⟨Nat.le_of_ble_eq_true rfl, Nat.le_of_ble_eq_true rfl, rfl⟩

theorem EncodedLength.movIndA (i : Fin 2) : EncodedLength.Statement (.movIndA i) :=
  ⟨Nat.le_of_ble_eq_true rfl, Nat.le_of_ble_eq_true rfl, rfl⟩

theorem EncodedLength.movIndImm (i : Fin 2) (imm : Byte) : EncodedLength.Statement (.movIndImm i imm) :=
  ⟨Nat.le_of_ble_eq_true rfl, Nat.le_of_ble_eq_true rfl, rfl⟩

theorem EncodedLength.movIndDir (i : Fin 2) (a : Byte) : EncodedLength.Statement (.movIndDir i a) :=
  ⟨Nat.le_of_ble_eq_true rfl, Nat.le_of_ble_eq_true rfl, rfl⟩

theorem EncodedLength.movDptrImm (imm : Word) : EncodedLength.Statement (.movDptrImm imm) :=
  ⟨Nat.le_of_ble_eq_true rfl, Nat.le_of_ble_eq_true rfl, rfl⟩

theorem EncodedLength.movxADptr : EncodedLength.Statement .movxADptr :=
  ⟨Nat.le_of_ble_eq_true rfl, Nat.le_of_ble_eq_true rfl, rfl⟩

theorem EncodedLength.movxAInd (i : Fin 2) : EncodedLength.Statement (.movxAInd i) :=
  ⟨Nat.le_of_ble_eq_true rfl, Nat.le_of_ble_eq_true rfl, rfl⟩

theorem EncodedLength.movxDptrA : EncodedLength.Statement .movxDptrA :=
  ⟨Nat.le_of_ble_eq_true rfl, Nat.le_of_ble_eq_true rfl, rfl⟩

theorem EncodedLength.movxIndA (i : Fin 2) : EncodedLength.Statement (.movxIndA i) :=
  ⟨Nat.le_of_ble_eq_true rfl, Nat.le_of_ble_eq_true rfl, rfl⟩

theorem EncodedLength.movcADptr : EncodedLength.Statement .movcADptr :=
  ⟨Nat.le_of_ble_eq_true rfl, Nat.le_of_ble_eq_true rfl, rfl⟩

theorem EncodedLength.movcAPc : EncodedLength.Statement .movcAPc :=
  ⟨Nat.le_of_ble_eq_true rfl, Nat.le_of_ble_eq_true rfl, rfl⟩

theorem EncodedLength.push (a : Byte) : EncodedLength.Statement (.push a) :=
  ⟨Nat.le_of_ble_eq_true rfl, Nat.le_of_ble_eq_true rfl, rfl⟩

theorem EncodedLength.pop (a : Byte) : EncodedLength.Statement (.pop a) :=
  ⟨Nat.le_of_ble_eq_true rfl, Nat.le_of_ble_eq_true rfl, rfl⟩

theorem EncodedLength.xchADir (a : Byte) : EncodedLength.Statement (.xchADir a) :=
  ⟨Nat.le_of_ble_eq_true rfl, Nat.le_of_ble_eq_true rfl, rfl⟩

theorem EncodedLength.xchAInd (i : Fin 2) : EncodedLength.Statement (.xchAInd i) :=
  ⟨Nat.le_of_ble_eq_true rfl, Nat.le_of_ble_eq_true rfl, rfl⟩

theorem EncodedLength.xchARn (n : Fin 8) : EncodedLength.Statement (.xchARn n) :=
  ⟨Nat.le_of_ble_eq_true rfl, Nat.le_of_ble_eq_true rfl, rfl⟩

theorem EncodedLength.addAImm (imm : Byte) : EncodedLength.Statement (.addAImm imm) :=
  ⟨Nat.le_of_ble_eq_true rfl, Nat.le_of_ble_eq_true rfl, rfl⟩

theorem EncodedLength.addADir (a : Byte) : EncodedLength.Statement (.addADir a) :=
  ⟨Nat.le_of_ble_eq_true rfl, Nat.le_of_ble_eq_true rfl, rfl⟩

theorem EncodedLength.addAInd (i : Fin 2) : EncodedLength.Statement (.addAInd i) :=
  ⟨Nat.le_of_ble_eq_true rfl, Nat.le_of_ble_eq_true rfl, rfl⟩

theorem EncodedLength.addARn (n : Fin 8) : EncodedLength.Statement (.addARn n) :=
  ⟨Nat.le_of_ble_eq_true rfl, Nat.le_of_ble_eq_true rfl, rfl⟩

theorem EncodedLength.addcAImm (imm : Byte) : EncodedLength.Statement (.addcAImm imm) :=
  ⟨Nat.le_of_ble_eq_true rfl, Nat.le_of_ble_eq_true rfl, rfl⟩

theorem EncodedLength.addcADir (a : Byte) : EncodedLength.Statement (.addcADir a) :=
  ⟨Nat.le_of_ble_eq_true rfl, Nat.le_of_ble_eq_true rfl, rfl⟩

theorem EncodedLength.addcAInd (i : Fin 2) : EncodedLength.Statement (.addcAInd i) :=
  ⟨Nat.le_of_ble_eq_true rfl, Nat.le_of_ble_eq_true rfl, rfl⟩

theorem EncodedLength.addcARn (n : Fin 8) : EncodedLength.Statement (.addcARn n) :=
  ⟨Nat.le_of_ble_eq_true rfl, Nat.le_of_ble_eq_true rfl, rfl⟩

theorem EncodedLength.subbAImm (imm : Byte) : EncodedLength.Statement (.subbAImm imm) :=
  ⟨Nat.le_of_ble_eq_true rfl, Nat.le_of_ble_eq_true rfl, rfl⟩

theorem EncodedLength.subbADir (a : Byte) : EncodedLength.Statement (.subbADir a) :=
  ⟨Nat.le_of_ble_eq_true rfl, Nat.le_of_ble_eq_true rfl, rfl⟩

theorem EncodedLength.subbAInd (i : Fin 2) : EncodedLength.Statement (.subbAInd i) :=
  ⟨Nat.le_of_ble_eq_true rfl, Nat.le_of_ble_eq_true rfl, rfl⟩

theorem EncodedLength.subbARn (n : Fin 8) : EncodedLength.Statement (.subbARn n) :=
  ⟨Nat.le_of_ble_eq_true rfl, Nat.le_of_ble_eq_true rfl, rfl⟩

theorem EncodedLength.incA : EncodedLength.Statement .incA :=
  ⟨Nat.le_of_ble_eq_true rfl, Nat.le_of_ble_eq_true rfl, rfl⟩

theorem EncodedLength.incDir (a : Byte) : EncodedLength.Statement (.incDir a) :=
  ⟨Nat.le_of_ble_eq_true rfl, Nat.le_of_ble_eq_true rfl, rfl⟩

theorem EncodedLength.incInd (i : Fin 2) : EncodedLength.Statement (.incInd i) :=
  ⟨Nat.le_of_ble_eq_true rfl, Nat.le_of_ble_eq_true rfl, rfl⟩

theorem EncodedLength.incRn (n : Fin 8) : EncodedLength.Statement (.incRn n) :=
  ⟨Nat.le_of_ble_eq_true rfl, Nat.le_of_ble_eq_true rfl, rfl⟩

theorem EncodedLength.incDptr : EncodedLength.Statement .incDptr :=
  ⟨Nat.le_of_ble_eq_true rfl, Nat.le_of_ble_eq_true rfl, rfl⟩

theorem EncodedLength.decA : EncodedLength.Statement .decA :=
  ⟨Nat.le_of_ble_eq_true rfl, Nat.le_of_ble_eq_true rfl, rfl⟩

theorem EncodedLength.decDir (a : Byte) : EncodedLength.Statement (.decDir a) :=
  ⟨Nat.le_of_ble_eq_true rfl, Nat.le_of_ble_eq_true rfl, rfl⟩

theorem EncodedLength.decInd (i : Fin 2) : EncodedLength.Statement (.decInd i) :=
  ⟨Nat.le_of_ble_eq_true rfl, Nat.le_of_ble_eq_true rfl, rfl⟩

theorem EncodedLength.decRn (n : Fin 8) : EncodedLength.Statement (.decRn n) :=
  ⟨Nat.le_of_ble_eq_true rfl, Nat.le_of_ble_eq_true rfl, rfl⟩

theorem EncodedLength.anlAImm (imm : Byte) : EncodedLength.Statement (.anlAImm imm) :=
  ⟨Nat.le_of_ble_eq_true rfl, Nat.le_of_ble_eq_true rfl, rfl⟩

theorem EncodedLength.anlADir (a : Byte) : EncodedLength.Statement (.anlADir a) :=
  ⟨Nat.le_of_ble_eq_true rfl, Nat.le_of_ble_eq_true rfl, rfl⟩

theorem EncodedLength.anlAInd (i : Fin 2) : EncodedLength.Statement (.anlAInd i) :=
  ⟨Nat.le_of_ble_eq_true rfl, Nat.le_of_ble_eq_true rfl, rfl⟩

theorem EncodedLength.anlARn (n : Fin 8) : EncodedLength.Statement (.anlARn n) :=
  ⟨Nat.le_of_ble_eq_true rfl, Nat.le_of_ble_eq_true rfl, rfl⟩

theorem EncodedLength.anlDirA (a : Byte) : EncodedLength.Statement (.anlDirA a) :=
  ⟨Nat.le_of_ble_eq_true rfl, Nat.le_of_ble_eq_true rfl, rfl⟩

theorem EncodedLength.anlDirImm (a : Byte) (imm : Byte) : EncodedLength.Statement (.anlDirImm a imm) :=
  ⟨Nat.le_of_ble_eq_true rfl, Nat.le_of_ble_eq_true rfl, rfl⟩

theorem EncodedLength.orlAImm (imm : Byte) : EncodedLength.Statement (.orlAImm imm) :=
  ⟨Nat.le_of_ble_eq_true rfl, Nat.le_of_ble_eq_true rfl, rfl⟩

theorem EncodedLength.orlADir (a : Byte) : EncodedLength.Statement (.orlADir a) :=
  ⟨Nat.le_of_ble_eq_true rfl, Nat.le_of_ble_eq_true rfl, rfl⟩

theorem EncodedLength.orlAInd (i : Fin 2) : EncodedLength.Statement (.orlAInd i) :=
  ⟨Nat.le_of_ble_eq_true rfl, Nat.le_of_ble_eq_true rfl, rfl⟩

theorem EncodedLength.orlARn (n : Fin 8) : EncodedLength.Statement (.orlARn n) :=
  ⟨Nat.le_of_ble_eq_true rfl, Nat.le_of_ble_eq_true rfl, rfl⟩

theorem EncodedLength.orlDirA (a : Byte) : EncodedLength.Statement (.orlDirA a) :=
  ⟨Nat.le_of_ble_eq_true rfl, Nat.le_of_ble_eq_true rfl, rfl⟩

theorem EncodedLength.orlDirImm (a : Byte) (imm : Byte) : EncodedLength.Statement (.orlDirImm a imm) :=
  ⟨Nat.le_of_ble_eq_true rfl, Nat.le_of_ble_eq_true rfl, rfl⟩

theorem EncodedLength.xrlAImm (imm : Byte) : EncodedLength.Statement (.xrlAImm imm) :=
  ⟨Nat.le_of_ble_eq_true rfl, Nat.le_of_ble_eq_true rfl, rfl⟩

theorem EncodedLength.xrlADir (a : Byte) : EncodedLength.Statement (.xrlADir a) :=
  ⟨Nat.le_of_ble_eq_true rfl, Nat.le_of_ble_eq_true rfl, rfl⟩

theorem EncodedLength.xrlAInd (i : Fin 2) : EncodedLength.Statement (.xrlAInd i) :=
  ⟨Nat.le_of_ble_eq_true rfl, Nat.le_of_ble_eq_true rfl, rfl⟩

theorem EncodedLength.xrlARn (n : Fin 8) : EncodedLength.Statement (.xrlARn n) :=
  ⟨Nat.le_of_ble_eq_true rfl, Nat.le_of_ble_eq_true rfl, rfl⟩

theorem EncodedLength.xrlDirA (a : Byte) : EncodedLength.Statement (.xrlDirA a) :=
  ⟨Nat.le_of_ble_eq_true rfl, Nat.le_of_ble_eq_true rfl, rfl⟩

theorem EncodedLength.xrlDirImm (a : Byte) (imm : Byte) : EncodedLength.Statement (.xrlDirImm a imm) :=
  ⟨Nat.le_of_ble_eq_true rfl, Nat.le_of_ble_eq_true rfl, rfl⟩

theorem EncodedLength.clrA : EncodedLength.Statement .clrA :=
  ⟨Nat.le_of_ble_eq_true rfl, Nat.le_of_ble_eq_true rfl, rfl⟩

theorem EncodedLength.cplA : EncodedLength.Statement .cplA :=
  ⟨Nat.le_of_ble_eq_true rfl, Nat.le_of_ble_eq_true rfl, rfl⟩

theorem EncodedLength.clrC : EncodedLength.Statement .clrC :=
  ⟨Nat.le_of_ble_eq_true rfl, Nat.le_of_ble_eq_true rfl, rfl⟩

theorem EncodedLength.setbC : EncodedLength.Statement .setbC :=
  ⟨Nat.le_of_ble_eq_true rfl, Nat.le_of_ble_eq_true rfl, rfl⟩

theorem EncodedLength.cplC : EncodedLength.Statement .cplC :=
  ⟨Nat.le_of_ble_eq_true rfl, Nat.le_of_ble_eq_true rfl, rfl⟩

theorem EncodedLength.clrBit (b : Byte) : EncodedLength.Statement (.clrBit b) :=
  ⟨Nat.le_of_ble_eq_true rfl, Nat.le_of_ble_eq_true rfl, rfl⟩

theorem EncodedLength.setbBit (b : Byte) : EncodedLength.Statement (.setbBit b) :=
  ⟨Nat.le_of_ble_eq_true rfl, Nat.le_of_ble_eq_true rfl, rfl⟩

theorem EncodedLength.cplBit (b : Byte) : EncodedLength.Statement (.cplBit b) :=
  ⟨Nat.le_of_ble_eq_true rfl, Nat.le_of_ble_eq_true rfl, rfl⟩

theorem EncodedLength.movCBit (b : Byte) : EncodedLength.Statement (.movCBit b) :=
  ⟨Nat.le_of_ble_eq_true rfl, Nat.le_of_ble_eq_true rfl, rfl⟩

theorem EncodedLength.movBitC (b : Byte) : EncodedLength.Statement (.movBitC b) :=
  ⟨Nat.le_of_ble_eq_true rfl, Nat.le_of_ble_eq_true rfl, rfl⟩

theorem EncodedLength.anlCBit (b : Byte) : EncodedLength.Statement (.anlCBit b) :=
  ⟨Nat.le_of_ble_eq_true rfl, Nat.le_of_ble_eq_true rfl, rfl⟩

theorem EncodedLength.anlCNbit (b : Byte) : EncodedLength.Statement (.anlCNbit b) :=
  ⟨Nat.le_of_ble_eq_true rfl, Nat.le_of_ble_eq_true rfl, rfl⟩

theorem EncodedLength.orlCBit (b : Byte) : EncodedLength.Statement (.orlCBit b) :=
  ⟨Nat.le_of_ble_eq_true rfl, Nat.le_of_ble_eq_true rfl, rfl⟩

theorem EncodedLength.orlCNbit (b : Byte) : EncodedLength.Statement (.orlCNbit b) :=
  ⟨Nat.le_of_ble_eq_true rfl, Nat.le_of_ble_eq_true rfl, rfl⟩

theorem EncodedLength.nop : EncodedLength.Statement .nop :=
  ⟨Nat.le_of_ble_eq_true rfl, Nat.le_of_ble_eq_true rfl, rfl⟩

theorem EncodedLength.ljmp (t : Word) : EncodedLength.Statement (.ljmp t) :=
  ⟨Nat.le_of_ble_eq_true rfl, Nat.le_of_ble_eq_true rfl, rfl⟩

theorem EncodedLength.sjmp (d : Int) : EncodedLength.Statement (.sjmp d) :=
  ⟨Nat.le_of_ble_eq_true rfl, Nat.le_of_ble_eq_true rfl, rfl⟩

theorem EncodedLength.jmpADptr : EncodedLength.Statement .jmpADptr :=
  ⟨Nat.le_of_ble_eq_true rfl, Nat.le_of_ble_eq_true rfl, rfl⟩

theorem EncodedLength.lcall (t : Word) : EncodedLength.Statement (.lcall t) :=
  ⟨Nat.le_of_ble_eq_true rfl, Nat.le_of_ble_eq_true rfl, rfl⟩

theorem EncodedLength.ret : EncodedLength.Statement .ret :=
  ⟨Nat.le_of_ble_eq_true rfl, Nat.le_of_ble_eq_true rfl, rfl⟩

theorem EncodedLength.jc (d : Int) : EncodedLength.Statement (.jc d) :=
  ⟨Nat.le_of_ble_eq_true rfl, Nat.le_of_ble_eq_true rfl, rfl⟩

theorem EncodedLength.jnc (d : Int) : EncodedLength.Statement (.jnc d) :=
  ⟨Nat.le_of_ble_eq_true rfl, Nat.le_of_ble_eq_true rfl, rfl⟩

theorem EncodedLength.jz (d : Int) : EncodedLength.Statement (.jz d) :=
  ⟨Nat.le_of_ble_eq_true rfl, Nat.le_of_ble_eq_true rfl, rfl⟩

theorem EncodedLength.jnz (d : Int) : EncodedLength.Statement (.jnz d) :=
  ⟨Nat.le_of_ble_eq_true rfl, Nat.le_of_ble_eq_true rfl, rfl⟩

theorem EncodedLength.jb (b : Byte) (d : Int) : EncodedLength.Statement (.jb b d) :=
  ⟨Nat.le_of_ble_eq_true rfl, Nat.le_of_ble_eq_true rfl, rfl⟩

theorem EncodedLength.jnb (b : Byte) (d : Int) : EncodedLength.Statement (.jnb b d) :=
  ⟨Nat.le_of_ble_eq_true rfl, Nat.le_of_ble_eq_true rfl, rfl⟩

theorem EncodedLength.cjneAImm (imm : Byte) (d : Int) : EncodedLength.Statement (.cjneAImm imm d) :=
  ⟨Nat.le_of_ble_eq_true rfl, Nat.le_of_ble_eq_true rfl, rfl⟩

theorem EncodedLength.cjneADir (a : Byte) (d : Int) : EncodedLength.Statement (.cjneADir a d) :=
  ⟨Nat.le_of_ble_eq_true rfl, Nat.le_of_ble_eq_true rfl, rfl⟩

theorem EncodedLength.cjneIndImm (i : Fin 2) (imm : Byte) (d : Int) : EncodedLength.Statement (.cjneIndImm i imm d) :=
  ⟨Nat.le_of_ble_eq_true rfl, Nat.le_of_ble_eq_true rfl, rfl⟩

theorem EncodedLength.cjneRnImm (n : Fin 8) (imm : Byte) (d : Int) : EncodedLength.Statement (.cjneRnImm n imm d) :=
  ⟨Nat.le_of_ble_eq_true rfl, Nat.le_of_ble_eq_true rfl, rfl⟩

theorem EncodedLength.djnzDir (a : Byte) (d : Int) : EncodedLength.Statement (.djnzDir a d) :=
  ⟨Nat.le_of_ble_eq_true rfl, Nat.le_of_ble_eq_true rfl, rfl⟩

theorem EncodedLength.djnzRn (n : Fin 8) (d : Int) : EncodedLength.Statement (.djnzRn n d) :=
  ⟨Nat.le_of_ble_eq_true rfl, Nat.le_of_ble_eq_true rfl, rfl⟩

theorem RomAgrees.movAImm (imm : Byte) : RomAgrees.Statement (.movAImm imm) :=
  (by decide : RomAgrees.entryOf 0x74 .mov 2)

theorem RomAgrees.movADir (a : Byte) : RomAgrees.Statement (.movADir a) :=
  (by decide : RomAgrees.entryOf 0xE5 .mov 2)

theorem RomAgrees.movAInd (i : Fin 2) : RomAgrees.Statement (.movAInd i) :=
  (by decide : ∀ r : Fin 2, RomAgrees.entryOf (0xE6 + BitVec.ofNat 8 r.val) .mov 2) i

theorem RomAgrees.movARn (n : Fin 8) : RomAgrees.Statement (.movARn n) :=
  (by decide : ∀ r : Fin 8, RomAgrees.entryOf (0xE8 + BitVec.ofNat 8 r.val) .mov 2) n

theorem RomAgrees.movRnA (n : Fin 8) : RomAgrees.Statement (.movRnA n) :=
  (by decide : ∀ r : Fin 8, RomAgrees.entryOf (0xF8 + BitVec.ofNat 8 r.val) .mov 2) n

theorem RomAgrees.movRnImm (n : Fin 8) (imm : Byte) : RomAgrees.Statement (.movRnImm n imm) :=
  (by decide : ∀ r : Fin 8, RomAgrees.entryOf (0x78 + BitVec.ofNat 8 r.val) .mov 2) n

theorem RomAgrees.movRnDir (n : Fin 8) (a : Byte) : RomAgrees.Statement (.movRnDir n a) :=
  (by decide : ∀ r : Fin 8, RomAgrees.entryOf (0xA8 + BitVec.ofNat 8 r.val) .mov 2) n

theorem RomAgrees.movDirA (a : Byte) : RomAgrees.Statement (.movDirA a) :=
  (by decide : RomAgrees.entryOf 0xF5 .mov 2)

theorem RomAgrees.movDirImm (a : Byte) (imm : Byte) : RomAgrees.Statement (.movDirImm a imm) :=
  (by decide : RomAgrees.entryOf 0x75 .mov 2)

theorem RomAgrees.movDirRn (a : Byte) (n : Fin 8) : RomAgrees.Statement (.movDirRn a n) :=
  (by decide : ∀ r : Fin 8, RomAgrees.entryOf (0x88 + BitVec.ofNat 8 r.val) .mov 2) n

theorem RomAgrees.movDirInd (a : Byte) (i : Fin 2) : RomAgrees.Statement (.movDirInd a i) :=
  (by decide : ∀ r : Fin 2, RomAgrees.entryOf (0x86 + BitVec.ofNat 8 r.val) .mov 2) i

theorem RomAgrees.movIndA (i : Fin 2) : RomAgrees.Statement (.movIndA i) :=
  (by decide : ∀ r : Fin 2, RomAgrees.entryOf (0xF6 + BitVec.ofNat 8 r.val) .mov 2) i

theorem RomAgrees.movIndImm (i : Fin 2) (imm : Byte) : RomAgrees.Statement (.movIndImm i imm) :=
  (by decide : ∀ r : Fin 2, RomAgrees.entryOf (0x76 + BitVec.ofNat 8 r.val) .mov 2) i

theorem RomAgrees.movIndDir (i : Fin 2) (a : Byte) : RomAgrees.Statement (.movIndDir i a) :=
  (by decide : ∀ r : Fin 2, RomAgrees.entryOf (0xA6 + BitVec.ofNat 8 r.val) .mov 2) i

theorem RomAgrees.movDptrImm (imm : Word) : RomAgrees.Statement (.movDptrImm imm) :=
  (by decide : RomAgrees.entryOf 0x90 .mov 2)

theorem RomAgrees.movxADptr : RomAgrees.Statement .movxADptr :=
  (by decide : RomAgrees.entryOf 0xE0 .movx 2)

theorem RomAgrees.movxAInd (i : Fin 2) : RomAgrees.Statement (.movxAInd i) :=
  (by decide : ∀ r : Fin 2, RomAgrees.entryOf (0xE2 + BitVec.ofNat 8 r.val) .movx 2) i

theorem RomAgrees.movxDptrA : RomAgrees.Statement .movxDptrA :=
  (by decide : RomAgrees.entryOf 0xF0 .movx 2)

theorem RomAgrees.movxIndA (i : Fin 2) : RomAgrees.Statement (.movxIndA i) :=
  (by decide : ∀ r : Fin 2, RomAgrees.entryOf (0xF2 + BitVec.ofNat 8 r.val) .movx 2) i

theorem RomAgrees.movcADptr : RomAgrees.Statement .movcADptr :=
  (by decide : RomAgrees.entryOf 0x93 .movc 2)

theorem RomAgrees.movcAPc : RomAgrees.Statement .movcAPc :=
  (by decide : RomAgrees.entryOf 0x83 .movc 2)

theorem RomAgrees.push (a : Byte) : RomAgrees.Statement (.push a) :=
  (by decide : RomAgrees.entryOf 0xC0 .push 1)

theorem RomAgrees.pop (a : Byte) : RomAgrees.Statement (.pop a) :=
  (by decide : RomAgrees.entryOf 0xD0 .pop 1)

theorem RomAgrees.xchADir (a : Byte) : RomAgrees.Statement (.xchADir a) :=
  (by decide : RomAgrees.entryOf 0xC5 .xch 2)

theorem RomAgrees.xchAInd (i : Fin 2) : RomAgrees.Statement (.xchAInd i) :=
  (by decide : ∀ r : Fin 2, RomAgrees.entryOf (0xC6 + BitVec.ofNat 8 r.val) .xch 2) i

theorem RomAgrees.xchARn (n : Fin 8) : RomAgrees.Statement (.xchARn n) :=
  (by decide : ∀ r : Fin 8, RomAgrees.entryOf (0xC8 + BitVec.ofNat 8 r.val) .xch 2) n

theorem RomAgrees.addAImm (imm : Byte) : RomAgrees.Statement (.addAImm imm) :=
  (by decide : RomAgrees.entryOf 0x24 .add 2)

theorem RomAgrees.addADir (a : Byte) : RomAgrees.Statement (.addADir a) :=
  (by decide : RomAgrees.entryOf 0x25 .add 2)

theorem RomAgrees.addAInd (i : Fin 2) : RomAgrees.Statement (.addAInd i) :=
  (by decide : ∀ r : Fin 2, RomAgrees.entryOf (0x26 + BitVec.ofNat 8 r.val) .add 2) i

theorem RomAgrees.addARn (n : Fin 8) : RomAgrees.Statement (.addARn n) :=
  (by decide : ∀ r : Fin 8, RomAgrees.entryOf (0x28 + BitVec.ofNat 8 r.val) .add 2) n

theorem RomAgrees.addcAImm (imm : Byte) : RomAgrees.Statement (.addcAImm imm) :=
  (by decide : RomAgrees.entryOf 0x34 .addc 2)

theorem RomAgrees.addcADir (a : Byte) : RomAgrees.Statement (.addcADir a) :=
  (by decide : RomAgrees.entryOf 0x35 .addc 2)

theorem RomAgrees.addcAInd (i : Fin 2) : RomAgrees.Statement (.addcAInd i) :=
  (by decide : ∀ r : Fin 2, RomAgrees.entryOf (0x36 + BitVec.ofNat 8 r.val) .addc 2) i

theorem RomAgrees.addcARn (n : Fin 8) : RomAgrees.Statement (.addcARn n) :=
  (by decide : ∀ r : Fin 8, RomAgrees.entryOf (0x38 + BitVec.ofNat 8 r.val) .addc 2) n

theorem RomAgrees.subbAImm (imm : Byte) : RomAgrees.Statement (.subbAImm imm) :=
  (by decide : RomAgrees.entryOf 0x94 .subb 2)

theorem RomAgrees.subbADir (a : Byte) : RomAgrees.Statement (.subbADir a) :=
  (by decide : RomAgrees.entryOf 0x95 .subb 2)

theorem RomAgrees.subbAInd (i : Fin 2) : RomAgrees.Statement (.subbAInd i) :=
  (by decide : ∀ r : Fin 2, RomAgrees.entryOf (0x96 + BitVec.ofNat 8 r.val) .subb 2) i

theorem RomAgrees.subbARn (n : Fin 8) : RomAgrees.Statement (.subbARn n) :=
  (by decide : ∀ r : Fin 8, RomAgrees.entryOf (0x98 + BitVec.ofNat 8 r.val) .subb 2) n

theorem RomAgrees.incA : RomAgrees.Statement .incA :=
  (by decide : RomAgrees.entryOf 0x04 .inc 1)

theorem RomAgrees.incDir (a : Byte) : RomAgrees.Statement (.incDir a) :=
  (by decide : RomAgrees.entryOf 0x05 .inc 1)

theorem RomAgrees.incInd (i : Fin 2) : RomAgrees.Statement (.incInd i) :=
  (by decide : ∀ r : Fin 2, RomAgrees.entryOf (0x06 + BitVec.ofNat 8 r.val) .inc 1) i

theorem RomAgrees.incRn (n : Fin 8) : RomAgrees.Statement (.incRn n) :=
  (by decide : ∀ r : Fin 8, RomAgrees.entryOf (0x08 + BitVec.ofNat 8 r.val) .inc 1) n

theorem RomAgrees.incDptr : RomAgrees.Statement .incDptr :=
  (by decide : RomAgrees.entryOf 0xA3 .inc 1)

theorem RomAgrees.decA : RomAgrees.Statement .decA :=
  (by decide : RomAgrees.entryOf 0x14 .dec 1)

theorem RomAgrees.decDir (a : Byte) : RomAgrees.Statement (.decDir a) :=
  (by decide : RomAgrees.entryOf 0x15 .dec 1)

theorem RomAgrees.decInd (i : Fin 2) : RomAgrees.Statement (.decInd i) :=
  (by decide : ∀ r : Fin 2, RomAgrees.entryOf (0x16 + BitVec.ofNat 8 r.val) .dec 1) i

theorem RomAgrees.decRn (n : Fin 8) : RomAgrees.Statement (.decRn n) :=
  (by decide : ∀ r : Fin 8, RomAgrees.entryOf (0x18 + BitVec.ofNat 8 r.val) .dec 1) n

theorem RomAgrees.anlAImm (imm : Byte) : RomAgrees.Statement (.anlAImm imm) :=
  (by decide : RomAgrees.entryOf 0x54 .anl 2)

theorem RomAgrees.anlADir (a : Byte) : RomAgrees.Statement (.anlADir a) :=
  (by decide : RomAgrees.entryOf 0x55 .anl 2)

theorem RomAgrees.anlAInd (i : Fin 2) : RomAgrees.Statement (.anlAInd i) :=
  (by decide : ∀ r : Fin 2, RomAgrees.entryOf (0x56 + BitVec.ofNat 8 r.val) .anl 2) i

theorem RomAgrees.anlARn (n : Fin 8) : RomAgrees.Statement (.anlARn n) :=
  (by decide : ∀ r : Fin 8, RomAgrees.entryOf (0x58 + BitVec.ofNat 8 r.val) .anl 2) n

theorem RomAgrees.anlDirA (a : Byte) : RomAgrees.Statement (.anlDirA a) :=
  (by decide : RomAgrees.entryOf 0x52 .anl 2)

theorem RomAgrees.anlDirImm (a : Byte) (imm : Byte) : RomAgrees.Statement (.anlDirImm a imm) :=
  (by decide : RomAgrees.entryOf 0x53 .anl 2)

theorem RomAgrees.orlAImm (imm : Byte) : RomAgrees.Statement (.orlAImm imm) :=
  (by decide : RomAgrees.entryOf 0x44 .orl 2)

theorem RomAgrees.orlADir (a : Byte) : RomAgrees.Statement (.orlADir a) :=
  (by decide : RomAgrees.entryOf 0x45 .orl 2)

theorem RomAgrees.orlAInd (i : Fin 2) : RomAgrees.Statement (.orlAInd i) :=
  (by decide : ∀ r : Fin 2, RomAgrees.entryOf (0x46 + BitVec.ofNat 8 r.val) .orl 2) i

theorem RomAgrees.orlARn (n : Fin 8) : RomAgrees.Statement (.orlARn n) :=
  (by decide : ∀ r : Fin 8, RomAgrees.entryOf (0x48 + BitVec.ofNat 8 r.val) .orl 2) n

theorem RomAgrees.orlDirA (a : Byte) : RomAgrees.Statement (.orlDirA a) :=
  (by decide : RomAgrees.entryOf 0x42 .orl 2)

theorem RomAgrees.orlDirImm (a : Byte) (imm : Byte) : RomAgrees.Statement (.orlDirImm a imm) :=
  (by decide : RomAgrees.entryOf 0x43 .orl 2)

theorem RomAgrees.xrlAImm (imm : Byte) : RomAgrees.Statement (.xrlAImm imm) :=
  (by decide : RomAgrees.entryOf 0x64 .xrl 2)

theorem RomAgrees.xrlADir (a : Byte) : RomAgrees.Statement (.xrlADir a) :=
  (by decide : RomAgrees.entryOf 0x65 .xrl 2)

theorem RomAgrees.xrlAInd (i : Fin 2) : RomAgrees.Statement (.xrlAInd i) :=
  (by decide : ∀ r : Fin 2, RomAgrees.entryOf (0x66 + BitVec.ofNat 8 r.val) .xrl 2) i

theorem RomAgrees.xrlARn (n : Fin 8) : RomAgrees.Statement (.xrlARn n) :=
  (by decide : ∀ r : Fin 8, RomAgrees.entryOf (0x68 + BitVec.ofNat 8 r.val) .xrl 2) n

theorem RomAgrees.xrlDirA (a : Byte) : RomAgrees.Statement (.xrlDirA a) :=
  (by decide : RomAgrees.entryOf 0x62 .xrl 2)

theorem RomAgrees.xrlDirImm (a : Byte) (imm : Byte) : RomAgrees.Statement (.xrlDirImm a imm) :=
  (by decide : RomAgrees.entryOf 0x63 .xrl 2)

theorem RomAgrees.clrA : RomAgrees.Statement .clrA :=
  (by decide : RomAgrees.entryOf 0xE4 .clrA 1)

theorem RomAgrees.cplA : RomAgrees.Statement .cplA :=
  (by decide : RomAgrees.entryOf 0xF4 .cplA 1)

theorem RomAgrees.clrC : RomAgrees.Statement .clrC :=
  (by decide : RomAgrees.entryOf 0xC3 .clrC 0)

theorem RomAgrees.setbC : RomAgrees.Statement .setbC :=
  (by decide : RomAgrees.entryOf 0xD3 .setbC 0)

theorem RomAgrees.cplC : RomAgrees.Statement .cplC :=
  (by decide : RomAgrees.entryOf 0xB3 .cplC 0)

theorem RomAgrees.clrBit (b : Byte) : RomAgrees.Statement (.clrBit b) :=
  (by decide : RomAgrees.entryOf 0xC2 .clrB 1)

theorem RomAgrees.setbBit (b : Byte) : RomAgrees.Statement (.setbBit b) :=
  (by decide : RomAgrees.entryOf 0xD2 .setbB 1)

theorem RomAgrees.cplBit (b : Byte) : RomAgrees.Statement (.cplBit b) :=
  (by decide : RomAgrees.entryOf 0xB2 .cplB 1)

theorem RomAgrees.movCBit (b : Byte) : RomAgrees.Statement (.movCBit b) :=
  (by decide : RomAgrees.entryOf 0xA2 .movCB 1)

theorem RomAgrees.movBitC (b : Byte) : RomAgrees.Statement (.movBitC b) :=
  (by decide : RomAgrees.entryOf 0x92 .movBC 1)

theorem RomAgrees.anlCBit (b : Byte) : RomAgrees.Statement (.anlCBit b) :=
  (by decide : RomAgrees.entryOf 0x82 .anlC 1)

theorem RomAgrees.anlCNbit (b : Byte) : RomAgrees.Statement (.anlCNbit b) :=
  (by decide : RomAgrees.entryOf 0xB0 .anlC 1)

theorem RomAgrees.orlCBit (b : Byte) : RomAgrees.Statement (.orlCBit b) :=
  (by decide : RomAgrees.entryOf 0x72 .orlC 1)

theorem RomAgrees.orlCNbit (b : Byte) : RomAgrees.Statement (.orlCNbit b) :=
  (by decide : RomAgrees.entryOf 0xA0 .orlC 1)

theorem RomAgrees.nop : RomAgrees.Statement .nop :=
  (by decide : RomAgrees.entryOf 0x00 .nop 0)

theorem RomAgrees.ljmp (t : Word) : RomAgrees.Statement (.ljmp t) :=
  (by decide : RomAgrees.entryOf 0x02 .ljmp 1)

theorem RomAgrees.sjmp (d : Int) : RomAgrees.Statement (.sjmp d) :=
  (by decide : RomAgrees.entryOf 0x80 .sjmp 1)

theorem RomAgrees.jmpADptr : RomAgrees.Statement .jmpADptr :=
  (by decide : RomAgrees.entryOf 0x73 .jmpi 1)

theorem RomAgrees.lcall (t : Word) : RomAgrees.Statement (.lcall t) :=
  (by decide : RomAgrees.entryOf 0x12 .lcall 1)

theorem RomAgrees.ret : RomAgrees.Statement .ret :=
  (by decide : RomAgrees.entryOf 0x22 .ret 0)

theorem RomAgrees.jc (d : Int) : RomAgrees.Statement (.jc d) :=
  (by decide : RomAgrees.entryOf 0x40 .jc 1)

theorem RomAgrees.jnc (d : Int) : RomAgrees.Statement (.jnc d) :=
  (by decide : RomAgrees.entryOf 0x50 .jnc 1)

theorem RomAgrees.jz (d : Int) : RomAgrees.Statement (.jz d) :=
  (by decide : RomAgrees.entryOf 0x60 .jz 1)

theorem RomAgrees.jnz (d : Int) : RomAgrees.Statement (.jnz d) :=
  (by decide : RomAgrees.entryOf 0x70 .jnz 1)

theorem RomAgrees.jb (b : Byte) (d : Int) : RomAgrees.Statement (.jb b d) :=
  (by decide : RomAgrees.entryOf 0x20 .jb 2)

theorem RomAgrees.jnb (b : Byte) (d : Int) : RomAgrees.Statement (.jnb b d) :=
  (by decide : RomAgrees.entryOf 0x30 .jnb 2)

theorem RomAgrees.cjneAImm (imm : Byte) (d : Int) : RomAgrees.Statement (.cjneAImm imm d) :=
  (by decide : RomAgrees.entryOf 0xB4 .cjne 3)

theorem RomAgrees.cjneADir (a : Byte) (d : Int) : RomAgrees.Statement (.cjneADir a d) :=
  (by decide : RomAgrees.entryOf 0xB5 .cjne 3)

theorem RomAgrees.cjneIndImm (i : Fin 2) (imm : Byte) (d : Int) : RomAgrees.Statement (.cjneIndImm i imm d) :=
  (by decide : ∀ r : Fin 2, RomAgrees.entryOf (0xB6 + BitVec.ofNat 8 r.val) .cjne 3) i

theorem RomAgrees.cjneRnImm (n : Fin 8) (imm : Byte) (d : Int) : RomAgrees.Statement (.cjneRnImm n imm d) :=
  (by decide : ∀ r : Fin 8, RomAgrees.entryOf (0xB8 + BitVec.ofNat 8 r.val) .cjne 3) n

theorem RomAgrees.djnzDir (a : Byte) (d : Int) : RomAgrees.Statement (.djnzDir a d) :=
  (by decide : RomAgrees.entryOf 0xD5 .djnz 2)

theorem RomAgrees.djnzRn (n : Fin 8) (d : Int) : RomAgrees.Statement (.djnzRn n d) :=
  (by decide : ∀ r : Fin 8, RomAgrees.entryOf (0xD8 + BitVec.ofNat 8 r.val) .djnz 2) n

end Sys2Proof.Laws
end

