-- ==== Sys2Proof/Machine/Text.lean ====
section
/-! DEFINITION. The text of an instruction (R119, R120): typed fragments and the string they spell. Rendering reads no
state. -/

namespace Sys2Proof.Machine

/-- A typed text fragment (R119), and the punctuation between fragments. -/
inductive Fragment where
  | mnemonic (text : String)
  | register (text : String)
  | number (text : String)
  | address (text : String)
  | plain (text : String)
  deriving DecidableEq, Repr

/-- The characters of a fragment. -/
def Fragment.text : Fragment → String
  | .mnemonic t | .register t | .number t | .address t | .plain t => t

/-- The mnemonic table (R101), numbered in order of first appearance. -/
def mnemonicTable : List String :=
  ["nop", "mov", "movx", "movc", "push", "pop", "xch", "add", "addc", "subb", "inc", "dec", "anl", "orl", "xrl",
   "clr", "cpl", "setb", "ljmp", "sjmp", "jmp", "lcall", "ret", "jc", "jnc", "jz", "jnz", "jb", "jnb", "cjne", "djnz"]

/-- The name of a register. -/
def regName (c : Cfg) (idx : Nat) : String := ((c.registers[idx]?).map RegDesc.name).getD "?"

/-- The text of an operand (R120). -/
def operandText (k : Block) (x : Ctx) (op : Operand) : List Fragment :=
  match op with
  | .reg idx => [.register (regName k.cfg idx)]
  | .imm8 v => [.number ("#" ++ hex 2 v.toNat)]
  | .imm16 v => [.number ("#" ++ hex 4 v.toNat)]
  | .dir a => [.address (hex 2 a.toNat)]
  | .ind idx => [.plain "@", .register (regName k.cfg idx)]
  | .bit base b neg =>
    (if neg then [.plain "/"] else []) ++
      [.address (hex 2 (bitByte k base)), .plain ".", .number (String.ofList [hexDigit b.toNat])]
  | .rel d => [.address (k.cfg.ptrFormat (x.relTarget d))]
  | .abs t => [.address (k.cfg.ptrFormat t)]
  | .idx baseIdx => [.plain "@", .register (regName k.cfg k.cfg.accReg), .plain "+", .register (regName k.cfg baseIdx)]

/-- The operand texts with the implied carry of six iids where it stands (R119). -/
def operandTexts (k : Block) (x : Ctx) (iid : Option Iid) (ops : List Operand) : List (List Fragment) :=
  let listed := ops.map (operandText k x)
  match iid with
  | some .movCB | some .anlC | some .orlC | some .clrC | some .setbC | some .cplC => [.register "C"] :: listed
  | some .movBC => listed ++ [[.register "C"]]
  | _ => listed

/-- The fragments of an instruction (R119). -/
def render (k : Block) (opc : Opcode) : List Fragment :=
  let x : Ctx := ⟨opc.address, opc.length, k.cfg.segTag opc.iid⟩
  let texts := operandTexts k x (Iid.ofNum opc.iid) opc.operands
  .mnemonic ((mnemonicTable[opc.mnem.toNat]?).getD "?") ::
    (if texts.isEmpty then [] else .plain " " :: (texts.intersperse [.plain ", "]).flatten)

/-- The text of an instruction. -/
def renderText (k : Block) (opc : Opcode) : String := String.join ((render k opc).map Fragment.text)

end Sys2Proof.Machine
end

