-- ==== Sys2Proof/Tests/Slice0.lean ====
section
/-! SUPPORT. The model's own tests: ill-formed terms refused, encodings written out from the form rules, single steps
from the spec's examples and vectors (the name in a comment is the vector's or the rule's), and a witness for the
hypotheses of each statement. -/

namespace Sys2Proof.Tests
open Sys2Proof Sys2Proof.Machine

/-! ## Ill-formed terms -/

/-- The error of a decode, if it ends in one. -/
def decodeFailure (c : Cfg) (bytes : List Byte) : Option DecodeError :=
  match decode c bytes 0 0 with
  | .ok _ => none
  | .error e => some e

theorem test_wf_displacement_high : (Instr.sjmp 128).WellFormed = false := by decide
theorem test_wf_displacement_low : (Instr.cjneRnImm 3 0x10 (-129)).WellFormed = false := by decide
theorem test_wf_displacement_ok : (Instr.djnzDir 0x30 (-128)).WellFormed = true := by decide
theorem test_wf_operand_bit_base : (Operand.bit 0x21 0 false).WellFormed = false := by decide
theorem test_wf_operand_rel : (Operand.rel 200).WellFormed = false := by decide
theorem test_wf_register_width : (RegDesc.mk "X" 2 (.split [0x83] true) false none).WellFormed = false := by decide
theorem test_wf_register_three_bytes : (RegDesc.mk "X" 3 (.direct 0x10) false none).WellFormed = false := by decide
theorem test_wf_register_split_byte : (RegDesc.mk "X" 1 (.split [0x83, 0x82] true) false none).WellFormed = false := by
  decide
theorem test_wf_segments_twice : segmentDefect (refSegments ++ [⟨.iram, 0, 0x80, 0x100⟩]) = some .iram := by decide
theorem test_wf_segments_no_sfr : segmentDefect [⟨.iram, 0, 0x100, 0⟩] = some .sfr := by decide
theorem test_wf_segments_ok : segmentsWellFormed refSegments = true := by decide
/-- The entry of `mov A, #imm8` with its segment field 3, which R95 reserves. -/
theorem test_rom_reserved_segment : ((RomEntry.ofWord (refRom 0x74)).ok refCfg 1 = true) ∧
    ({ RomEntry.ofWord (refRom 0x74) with seg := 3 }).ok refCfg 1 = false := by decide
/-- Its immediate operand marked as written, which R111 excludes. -/
theorem test_rom_written_immediate : ({ RomEntry.ofWord (refRom 0x74) with op1 := 0x1A02 }).ok refCfg 1 = false := by
  decide
theorem test_rom_pairing : ({ RomEntry.ofWord (refRom 0x74) with op1 := 0x0C03 }).ok refCfg 1 = false := by decide
/-- An unused slot with a bit of 15:13 set (R94, R97). -/
theorem test_rom_unused_slot : ({ RomEntry.ofWord (refRom 0x74) with op2 := 0xE000 }).ok refCfg 1 = false := by decide
/-- `mov` with its destination not tagged W, its source not tagged R, or no source (R100). -/
theorem test_rom_directions : ({ RomEntry.ofWord (refRom 0x74) with op0 := 0x0381 }).ok refCfg 1 = false ∧
    ({ RomEntry.ofWord (refRom 0x74) with op1 := 0x0202 }).ok refCfg 1 = false ∧
    ({ RomEntry.ofWord (refRom 0x74) with nops := 1, op1 := 0 }).ok refCfg 1 = false := by decide
/-- A pointer (kind 1) in the main table to sub-table 7, which holds `nop` with `fixed_len` 2 at 0x00 and with
`fixed_len` 1, which breaks R115, at 0x01; a pointer to sub-table 8, which does not exist. -/
def subCfg : Cfg :=
  { refCfg with
    rom := fun b => if b = 0xA5 then 0x1F else if b = 0xA4 then 0x23 else refRom b
    subtables := fun n => if n = 7 then some fun b => if b = 0 then 0x1805 else if b = 1 then 0x1405 else 0 else none }

theorem test_subtable_decodes : (decode subCfg [0xA5, 0x00] 0 0).toOption.map (·.length) = some 2 := by decide
theorem test_subtable_bad_entry : decodeFailure subCfg [0xA5, 0x01] = some (.malformed (some 7) 0x01) := by decide
theorem test_subtable_empty_entry : decodeFailure subCfg [0xA5, 0x02] = some (.invalid 0x02) := by decide
theorem test_subtable_missing : decodeFailure subCfg [0xA4, 0x00] = some (.malformed none 0xA4) := by decide
theorem test_subtable_missing_truncated : decodeFailure subCfg [0xA4] = some (.truncated 1 1) := by decide
theorem test_rom_fixed_len : (RomEntry.ofWord (refRom 0x74)).ok refCfg 2 = false := by decide
theorem test_block_duplicate_segment :
    ({ ref with cfg := { refCfg with segments := refSegments ++ refSegments } }).defect = some (.segment .iram) := by decide
theorem test_block_computed_register :
    ({ ref with cfg := { refCfg with pcReg := 13 } }).defect = some (.register 12) := by decide

/-! ## Decoding of words written out from the encoding rules, every form once -/

/-- The example bytes of R221, R222, R223, R224, R225, R226, R227, R228, R229, R230, R231, R232, R233, R234, R235. -/
theorem test_decode_mov :
    decodeInstr [0x74, 0x5A] = .ok (.movAImm 0x5A) ∧
    decodeInstr [0xE5, 0x30] = .ok (.movADir 0x30) ∧
    decodeInstr [0xE7] = .ok (.movAInd 1) ∧
    decodeInstr [0xEB] = .ok (.movARn 3) ∧
    decodeInstr [0xFA] = .ok (.movRnA 2) ∧
    decodeInstr [0x78, 0x05] = .ok (.movRnImm 0 0x05) ∧
    decodeInstr [0xA9, 0x30] = .ok (.movRnDir 1 0x30) ∧
    decodeInstr [0xF5, 0x30] = .ok (.movDirA 0x30) ∧
    decodeInstr [0x75, 0xD0, 0x18] = .ok (.movDirImm 0xD0 0x18) ∧
    decodeInstr [0x8A, 0x31] = .ok (.movDirRn 0x31 2) ∧
    decodeInstr [0x86, 0x32] = .ok (.movDirInd 0x32 0) ∧
    decodeInstr [0xF6] = .ok (.movIndA 0) ∧
    decodeInstr [0x77, 0xEE] = .ok (.movIndImm 1 0xEE) ∧
    decodeInstr [0xA6, 0x30] = .ok (.movIndDir 0 0x30) ∧
    decodeInstr [0x90, 0x12, 0x34] = .ok (.movDptrImm 0x1234) := by
  decide

/-- The example bytes of R237, R238, R239, R240, R242, R243. -/
theorem test_decode_movx_movc :
    decodeInstr [0xE0] = .ok .movxADptr ∧
    decodeInstr [0xE2] = .ok (.movxAInd 0) ∧
    decodeInstr [0xF0] = .ok .movxDptrA ∧
    decodeInstr [0xF3] = .ok (.movxIndA 1) ∧
    decodeInstr [0x93] = .ok .movcADptr ∧
    decodeInstr [0x83] = .ok .movcAPc := by
  decide

/-- The example bytes of R245, R247, R249, R250, R251. -/
theorem test_decode_stack_xch :
    decodeInstr [0xC0, 0xE0] = .ok (.push 0xE0) ∧
    decodeInstr [0xD0, 0x30] = .ok (.pop 0x30) ∧
    decodeInstr [0xC5, 0x30] = .ok (.xchADir 0x30) ∧
    decodeInstr [0xC6] = .ok (.xchAInd 0) ∧
    decodeInstr [0xCA] = .ok (.xchARn 2) := by
  decide

/-- The example bytes of R261, R262, R263, R264, R266, R267, R268, R269. -/
theorem test_decode_add_addc :
    decodeInstr [0x24, 0x01] = .ok (.addAImm 0x01) ∧
    decodeInstr [0x25, 0x30] = .ok (.addADir 0x30) ∧
    decodeInstr [0x26] = .ok (.addAInd 0) ∧
    decodeInstr [0x2B] = .ok (.addARn 3) ∧
    decodeInstr [0x34, 0x00] = .ok (.addcAImm 0x00) ∧
    decodeInstr [0x35, 0x30] = .ok (.addcADir 0x30) ∧
    decodeInstr [0x36] = .ok (.addcAInd 0) ∧
    decodeInstr [0x3B] = .ok (.addcARn 3) := by
  decide

/-- The example bytes of R271, R272, R273, R274, R276, R277, R278, R279, R280, R282, R283, R284, R285. -/
theorem test_decode_subb_inc_dec :
    decodeInstr [0x94, 0xFF] = .ok (.subbAImm 0xFF) ∧
    decodeInstr [0x95, 0x30] = .ok (.subbADir 0x30) ∧
    decodeInstr [0x96] = .ok (.subbAInd 0) ∧
    decodeInstr [0x9B] = .ok (.subbARn 3) ∧
    decodeInstr [0x04] = .ok .incA ∧
    decodeInstr [0x05, 0x30] = .ok (.incDir 0x30) ∧
    decodeInstr [0x07] = .ok (.incInd 1) ∧
    decodeInstr [0x0F] = .ok (.incRn 7) ∧
    decodeInstr [0xA3] = .ok .incDptr ∧
    decodeInstr [0x14] = .ok .decA ∧
    decodeInstr [0x15, 0x30] = .ok (.decDir 0x30) ∧
    decodeInstr [0x17] = .ok (.decInd 1) ∧
    decodeInstr [0x1F] = .ok (.decRn 7) := by
  decide

/-- The example bytes of R287, R288, R289, R290, R291, R292. -/
theorem test_decode_anl :
    decodeInstr [0x54, 0x3C] = .ok (.anlAImm 0x3C) ∧
    decodeInstr [0x55, 0x30] = .ok (.anlADir 0x30) ∧
    decodeInstr [0x56] = .ok (.anlAInd 0) ∧
    decodeInstr [0x5D] = .ok (.anlARn 5) ∧
    decodeInstr [0x52, 0x30] = .ok (.anlDirA 0x30) ∧
    decodeInstr [0x53, 0x30, 0x3C] = .ok (.anlDirImm 0x30 0x3C) := by
  decide

/-- The example bytes of R294, R295, R296, R297, R298, R299. -/
theorem test_decode_orl :
    decodeInstr [0x44, 0x0C] = .ok (.orlAImm 0x0C) ∧
    decodeInstr [0x45, 0x30] = .ok (.orlADir 0x30) ∧
    decodeInstr [0x46] = .ok (.orlAInd 0) ∧
    decodeInstr [0x4D] = .ok (.orlARn 5) ∧
    decodeInstr [0x42, 0x30] = .ok (.orlDirA 0x30) ∧
    decodeInstr [0x43, 0x30, 0x0C] = .ok (.orlDirImm 0x30 0x0C) := by
  decide

/-- The example bytes of R301, R302, R303, R304, R305, R306, R308, R310. -/
theorem test_decode_xrl_clr_cpl :
    decodeInstr [0x64, 0x0F] = .ok (.xrlAImm 0x0F) ∧
    decodeInstr [0x65, 0x30] = .ok (.xrlADir 0x30) ∧
    decodeInstr [0x66] = .ok (.xrlAInd 0) ∧
    decodeInstr [0x6D] = .ok (.xrlARn 5) ∧
    decodeInstr [0x62, 0x30] = .ok (.xrlDirA 0x30) ∧
    decodeInstr [0x63, 0x30, 0x0F] = .ok (.xrlDirImm 0x30 0x0F) ∧
    decodeInstr [0xE4] = .ok .clrA ∧
    decodeInstr [0xF4] = .ok .cplA := by
  decide

/-- The example bytes of R321, R323, R325, R327, R329, R331, R333, R335, R337, R338, R340, R341. -/
theorem test_decode_bit :
    decodeInstr [0xC3] = .ok .clrC ∧
    decodeInstr [0xD3] = .ok .setbC ∧
    decodeInstr [0xB3] = .ok .cplC ∧
    decodeInstr [0xC2, 0x0A] = .ok (.clrBit 0x0A) ∧
    decodeInstr [0xD2, 0xD3] = .ok (.setbBit 0xD3) ∧
    decodeInstr [0xB2, 0x7F] = .ok (.cplBit 0x7F) ∧
    decodeInstr [0xA2, 0xE0] = .ok (.movCBit 0xE0) ∧
    decodeInstr [0x92, 0x08] = .ok (.movBitC 0x08) ∧
    decodeInstr [0x82, 0x08] = .ok (.anlCBit 0x08) ∧
    decodeInstr [0xB0, 0x08] = .ok (.anlCNbit 0x08) ∧
    decodeInstr [0x72, 0x08] = .ok (.orlCBit 0x08) ∧
    decodeInstr [0xA0, 0x08] = .ok (.orlCNbit 0x08) := by
  decide

/-- The example bytes of R351, R353, R355, R357, R359, R361, R363, R365, R367, R369, R371, R373. -/
theorem test_decode_jumps :
    decodeInstr [0x00] = .ok .nop ∧
    decodeInstr [0x02, 0x12, 0x34] = .ok (.ljmp 0x1234) ∧
    decodeInstr [0x80, 0xFE] = .ok (.sjmp (-2)) ∧
    decodeInstr [0x73] = .ok .jmpADptr ∧
    decodeInstr [0x12, 0x02, 0x00] = .ok (.lcall 0x0200) ∧
    decodeInstr [0x22] = .ok .ret ∧
    decodeInstr [0x40, 0x05] = .ok (.jc (5)) ∧
    decodeInstr [0x50, 0x05] = .ok (.jnc (5)) ∧
    decodeInstr [0x60, 0x10] = .ok (.jz (16)) ∧
    decodeInstr [0x70, 0xF0] = .ok (.jnz (-16)) ∧
    decodeInstr [0x20, 0xE7, 0x03] = .ok (.jb 0xE7 (3)) ∧
    decodeInstr [0x30, 0xE7, 0x03] = .ok (.jnb 0xE7 (3)) := by
  decide

/-- The example bytes of R375, R376, R377, R378, R380, R381. -/
theorem test_decode_cjne_djnz :
    decodeInstr [0xB4, 0x10, 0x05] = .ok (.cjneAImm 0x10 (5)) ∧
    decodeInstr [0xB5, 0x30, 0x05] = .ok (.cjneADir 0x30 (5)) ∧
    decodeInstr [0xB6, 0x01, 0x05] = .ok (.cjneIndImm 0 0x01 (5)) ∧
    decodeInstr [0xBC, 0x80, 0xFD] = .ok (.cjneRnImm 4 0x80 (-3)) ∧
    decodeInstr [0xD5, 0x30, 0xFD] = .ok (.djnzDir 0x30 (-3)) ∧
    decodeInstr [0xD8, 0xFE] = .ok (.djnzRn 0 (-2)) := by
  decide

/-- The worked example of R140, in the numbering of opcode_table.json. -/
theorem test_decode_table_word : decodeTableWord 24 0xFD10B4 = some (.cjneAImm 0x10 (-3)) := by decide
theorem test_decode_table_word_short : decodeTableWord 8 0x24 = some (.addAImm 0x00) := by decide
theorem test_decode_break : decodeInstr [0xA5, 0x00, 0x00] = .error (.invalid 0xA5) := by decide
theorem test_decode_illegal_before_truncated : decodeInstr [0xA5] = .error (.invalid 0xA5) := by decide
theorem test_decode_truncated : decodeInstr [0xB4, 0x10] = .error (.truncated 1 2) := by decide
theorem test_decode_offset : decode refCfg [0x00, 0x32] 1 0 = .error (.invalid 0x32) := by decide
theorem test_decode_every_operand_byte :
    decodeInstr [0xD2, 0xFF] = .ok (.setbBit 0xFF) ∧ decodeInstr [0x80, 0x80] = .ok (.sjmp (-128)) := by decide
theorem test_encode_cjne : encode (.cjneAImm 0x10 (-3)) = [0xB4, 0x10, 0xFD] := by decide
theorem test_encode_bit : encode (.anlCNbit 0xD7) = [0xB0, 0xD7] := by decide

/-! ## Single steps -/

/-- A state made from reset: cells, the program counter, the bytes there, UFLAGS. -/
def demo (cells : List (Nat × Cell)) (pc : Word) (bytes : List Byte) (uflags : Bool := false) : State :=
  placeCode pc.toNat bytes
    { store := cells.foldl (fun m x => m.write x.1 x.2) State.reset.store, pc := some pc, uflags := uflags }

/-- Some cells, PC and UFLAGS after one step. -/
def look (ps : List Nat) (r : Host.Outcome State Fault Refusal) : Option (List Cell × Option Word × Bool) :=
  (nextOf r).map fun t => (ps.map t.store.read, t.pc, t.uflags)

-- DT-4
theorem test_step_dt_4 : look [0xD0] (step (demo [(0xE0, some 0x00)] 0x0000 [0x75, 0xD0, 0x99])) =
    some ([some 0x99], some 0x0003, false) := by decide
-- DT-5
theorem test_step_dt_5 : look [0x1D] (step (demo [(0xD0, some 0x18)] 0x0000 [0x7D, 0xEE])) =
    some ([some 0xEE], some 0x0002, false) := by decide
-- UD-1
theorem test_step_ud_1 : look [0xE0] (step (demo [(0xE0, some 0x55)] 0x0000 [0xE5, 0x30])) =
    some ([none], some 0x0002, false) := by decide
-- R235
theorem test_step_r235 : look [0x82, 0x83] (step (demo [] 0x0000 [0x90, 0x12, 0x34])) =
    some ([some 0x34, some 0x12], some 0x0003, false) := by decide
-- SG-1
theorem test_step_sg_1 : look [0x90] (step (demo [(0xE0, some 0x42), (0x0, some 0x90)] 0x0000 [0xF2])) =
    some ([some 0x42], some 0x0001, false) := by decide
-- DT-17
theorem test_step_dt_17 : look [0x112] (step (demo [(0xE0, some 0x99), (0x83, some 0x00), (0x82, some 0x12)] 0x0000 [0xF0])) =
    some ([some 0x99], some 0x0001, false) := by decide
-- DT-18
theorem test_step_dt_18 : look [0xE0] (step (demo [(0x1, some 0x10), (0x110, some 0xC3)] 0x0000 [0xE3])) =
    some ([some 0xC3], some 0x0001, false) := by decide
-- DT-16
theorem test_step_dt_16 : look [0xE0] (step (demo [(0xE0, some 0x03), (0x10124, some 0xBE)] 0x0020 [0x83])) =
    some ([some 0xBE], some 0x0021, false) := by decide
-- SG-5
theorem test_step_sg_5 : look [] (step (demo [(0xE0, some 0xE0), (0x83, some 0x00), (0x82, some 0x00), (0x101E0, some 0x11)] 0x0000 [0x93])) =
    some ([], some 0x0001, false) := by decide
-- DT-10
theorem test_step_dt_10 : look [0x80, 0x81] (step (demo [(0xE0, some 0x5A), (0x81, some 0x7F)] 0x0000 [0xC0, 0xE0])) =
    some ([some 0x5A, some 0x80], some 0x0002, false) := by decide
-- DT-12
theorem test_step_dt_12 : look [0x8, 0x81] (step (demo [] 0x0000 [0xC0, 0x81])) =
    some ([some 0x07, some 0x08], some 0x0002, false) := by decide
-- DT-14
theorem test_step_dt_14 : look [0x81] (step (demo [(0x81, some 0x08), (0x8, some 0x40)] 0x0000 [0xD0, 0x81])) =
    some ([some 0x40], some 0x0002, false) := by decide
-- ER-8
theorem test_step_er_8 : look [0x30] (step (demo [(0x81, none), (0x30, some 0x01)] 0x0000 [0xD0, 0x30])) =
    some ([none], some 0x0002, false) := by decide
-- DT-8
theorem test_step_dt_8 : look [0x0, 0xE0] (step (demo [(0xE0, some 0x12), (0x0, some 0x34)] 0x0000 [0xC8])) =
    some ([some 0x12, some 0x34], some 0x0001, false) := by decide
-- UD-2
theorem test_step_ud_2 : look [0xE0] (step (demo [(0xE0, some 0x05), (0xD0, some 0x80)] 0x0000 [0x25, 0x30])) =
    some ([none], some 0x0002, true) := by decide
-- UD-3
theorem test_step_ud_3 : look [0xE0] (step (demo [(0xE0, some 0x01)] 0x0000 [0x34, 0x01] true)) =
    some ([none], some 0x0002, true) := by decide
-- UD-4
theorem test_step_ud_4 : look [0xE0] (step (demo [(0xE0, some 0x01)] 0x0000 [0x24, 0x01] true)) =
    some ([some 0x02], some 0x0002, false) := by decide
-- AL-1
theorem test_step_al_1 : look [0xE0] (step (demo [(0xE0, some 0xFF), (0xD0, some 0x80)] 0x0000 [0x04])) =
    some ([some 0x00], some 0x0001, false) := by decide
-- AL-5
theorem test_step_al_5 : look [0x82, 0x83] (step (demo [(0x83, some 0x12), (0x82, some 0xFF)] 0x0000 [0xA3])) =
    some ([some 0x00, some 0x13], some 0x0001, false) := by decide
-- AL-6
theorem test_step_al_6 : look [0x17] (step (demo [(0xD0, some 0x10), (0x17, some 0x09)] 0x0000 [0x0F])) =
    some ([some 0x0A], some 0x0001, false) := by decide
-- AL-2
theorem test_step_al_2 : look [0xE0] (step (demo [(0xE0, some 0x00)] 0x0000 [0x14])) =
    some ([some 0xFF], some 0x0001, false) := by decide
-- AL-7
theorem test_step_al_7 : look [0x40] (step (demo [(0x1, some 0x40), (0x40, some 0x00)] 0x0000 [0x17])) =
    some ([some 0xFF], some 0x0001, false) := by decide
-- AL-8
theorem test_step_al_8 : look [0xD0, 0xE0] (step (demo [(0xE0, some 0xF0), (0xD0, some 0xC4)] 0x0000 [0x54, 0x3C])) =
    some ([some 0xC5, some 0x30], some 0x0002, false) := by decide
-- UD-5
theorem test_step_ud_5 : look [0xD0, 0xE0] (step (demo [(0xE0, some 0x3C)] 0x0000 [0x54, 0x0F] true)) =
    some ([some 0x01, some 0x0C], some 0x0002, true) := by decide
-- AL-13
theorem test_step_al_13 : look [0xD0] (step (demo [(0xE0, some 0x18), (0xD0, some 0x01)] 0x0000 [0x42, 0xD0])) =
    some ([some 0x18], some 0x0002, false) := by decide
-- AL-9
theorem test_step_al_9 : look [0x30, 0xD0] (step (demo [(0xE0, some 0x00), (0x30, some 0x02)] 0x0000 [0x43, 0x30, 0x01])) =
    some ([some 0x03, some 0x01], some 0x0003, false) := by decide
-- AL-10
theorem test_step_al_10 : look [0xD0, 0xE0] (step (demo [(0xE0, some 0x5A)] 0x0000 [0x65, 0xE0])) =
    some ([some 0x01, some 0x00], some 0x0002, false) := by decide
-- AL-12
theorem test_step_al_12 : look [0xD0, 0xE0] (step (demo [(0xE0, some 0x37), (0xD0, some 0x84)] 0x0000 [0xE4])) =
    some ([some 0x85, some 0x00], some 0x0001, false) := by decide
-- AL-11
theorem test_step_al_11 : look [0xD0, 0xE0] (step (demo [(0xE0, some 0x00)] 0x0000 [0xF4])) =
    some ([some 0x01, some 0xFF], some 0x0001, false) := by decide
-- R321
theorem test_step_r321 : look [0xD0] (step (demo [(0xE0, some 0x01), (0xD0, some 0x80)] 0x0000 [0xC3])) =
    some ([some 0x00], some 0x0001, false) := by decide
-- BT-6
theorem test_step_bt_6 : look [0xD0] (step (demo [(0xE0, some 0x01), (0xD0, some 0x01)] 0x0000 [0xD3])) =
    some ([some 0x80], some 0x0001, false) := by decide
-- UD-16
theorem test_step_ud_16 : look [0xD0] (step (demo [(0xE0, none)] 0x0000 [0xD3])) =
    some ([some 0x80], some 0x0001, true) := by decide
-- R325
theorem test_step_r325 : look [0xD0] (step (demo [(0xE0, some 0x00), (0xD0, some 0x80)] 0x0000 [0xB3])) =
    some ([some 0x01], some 0x0001, false) := by decide
-- BT-4
theorem test_step_bt_4 : look [0xE0] (step (demo [(0xE0, some 0xFF)] 0x0000 [0xC2, 0xE7])) =
    some ([some 0x7F], some 0x0002, false) := by decide
-- BT-5
theorem test_step_bt_5 : look [0xD0] (step (demo [(0xE0, some 0x01), (0xD0, some 0x01)] 0x0000 [0xD2, 0xD7])) =
    some ([some 0x81], some 0x0002, false) := by decide
-- BT-7
theorem test_step_bt_7 : look [] (step (demo [] 0x0000 [0xD2, 0x08])) =
    some ([], some 0x0002, false) := by decide
-- BT-8
theorem test_step_bt_8 : look [0x21] (step (demo [(0x21, some 0x04)] 0x0000 [0xB2, 0x0A])) =
    some ([some 0x00], some 0x0002, false) := by decide
-- BT-9
theorem test_step_bt_9 : look [0xD0] (step (demo [(0xE0, some 0x00), (0x24, some 0x08)] 0x0000 [0xA2, 0x23])) =
    some ([some 0x81], some 0x0002, false) := by decide
-- BT-10
theorem test_step_bt_10 : look [0x24] (step (demo [(0xD0, some 0x80), (0x24, some 0x00)] 0x0000 [0x92, 0x23])) =
    some ([some 0x08], some 0x0002, false) := by decide
-- BT-11
theorem test_step_bt_11 : look [0xD0] (step (demo [(0xE0, some 0x00), (0xD0, some 0x80), (0x24, some 0x00)] 0x0000 [0xB0, 0x23])) =
    some ([some 0x81], some 0x0002, false) := by decide
-- BT-12
theorem test_step_bt_12 : look [0xD0] (step (demo [(0xE0, some 0x00), (0xD0, some 0x00), (0x24, some 0x08)] 0x0000 [0xA0, 0x23])) =
    some ([some 0x01], some 0x0002, false) := by decide
-- BT-13
theorem test_step_bt_13 : look [0xD0] (step (demo [(0xE0, some 0x00), (0xD0, some 0x80)] 0x0000 [0x72, 0xD7])) =
    some ([some 0x81], some 0x0002, false) := by decide
-- CF-3
theorem test_step_cf_3 : look [] (step (demo [] 0xFFFF [0x00])) =
    some ([], some 0x0000, false) := by decide
-- R353
theorem test_step_r353 : look [] (step (demo [] 0x0000 [0x02, 0x12, 0x34])) =
    some ([], some 0x1234, false) := by decide
-- CF-2
theorem test_step_cf_2 : look [] (step (demo [] 0xFFF0 [0x80, 0x7F])) =
    some ([], some 0x0071, false) := by decide
-- CF-16
theorem test_step_cf_16 : look [] (step (demo [(0xE0, some 0xFF), (0x83, some 0xFF), (0x82, some 0x80)] 0x0000 [0x73])) =
    some ([], some 0x007F, false) := by decide
-- CF-17
theorem test_step_cf_17 : look [0x0, 0x81, 0xFF] (step (demo [(0x81, some 0xFE)] 0x1234 [0x12, 0x40, 0x00])) =
    some ([some 0x12, some 0x00, some 0x37], some 0x4000, false) := by decide
-- CF-18
theorem test_step_cf_18 : look [0x81] (step (demo [(0x81, some 0x21), (0x20, some 0x37), (0x21, some 0x12)] 0x0300 [0x22])) =
    some ([some 0x1F], some 0x1237, false) := by decide
-- UD-13
theorem test_step_ud_13 : look [0x81] (step (demo [] 0x0300 [0x22])) =
    some ([some 0x05], none, false) := by decide
-- UD-9
theorem test_step_ud_9 : look [] (step (demo [] 0x0200 [0x40, 0x05] true)) =
    some ([], none, true) := by decide
-- CF-7
theorem test_step_cf_7 : look [] (step (demo [(0xD0, some 0x80)] 0x0020 [0x50, 0x10])) =
    some ([], some 0x0022, false) := by decide
-- CF-4
theorem test_step_cf_4 : look [] (step (demo [(0xE0, some 0x00)] 0x0020 [0x60, 0x10])) =
    some ([], some 0x0032, false) := by decide
-- UD-10
theorem test_step_ud_10 : look [] (step (demo [(0xE0, none)] 0x0200 [0x60, 0x05])) =
    some ([], none, false) := by decide
-- CF-6
theorem test_step_cf_6 : look [] (step (demo [(0xE0, some 0x80)] 0x0020 [0x70, 0xF0])) =
    some ([], some 0x0012, false) := by decide
-- CF-8
theorem test_step_cf_8 : look [] (step (demo [(0x21, some 0x80)] 0x0014 [0x20, 0x0F, 0x03])) =
    some ([], some 0x001A, false) := by decide
-- CF-9
theorem test_step_cf_9 : look [] (step (demo [(0xD0, some 0x00)] 0x0000 [0x30, 0xD7, 0x05])) =
    some ([], some 0x0008, false) := by decide
-- CF-10
theorem test_step_cf_10 : look [0xD0] (step (demo [(0xE0, some 0x0F)] 0x0100 [0xB4, 0x10, 0xFD])) =
    some ([some 0x81], some 0x0100, false) := by decide
-- CF-12
theorem test_step_cf_12 : look [0xD0] (step (demo [(0xE0, some 0x00), (0x0, some 0x30), (0x30, some 0x55)] 0x0000 [0xB6, 0x55, 0x10])) =
    some ([some 0x01], some 0x0003, false) := by decide
-- UD-12
theorem test_step_ud_12 : look [] (step (demo [(0xE0, some 0x01)] 0x0000 [0xB5, 0x30, 0x02])) =
    some ([], none, true) := by decide
-- CF-15
theorem test_step_cf_15 : look [0x30] (step (demo [(0x30, some 0x00)] 0x0040 [0xD5, 0x30, 0xFD])) =
    some ([some 0xFF], some 0x0040, false) := by decide
-- UD-11
theorem test_step_ud_11 : look [] (step (demo [] 0x0040 [0xD5, 0x30, 0xFD])) =
    some ([], none, false) := by decide
-- UD-7
theorem test_step_ud_7 : look [0xE0] (step (demo [(0xD0, some 0x80)] 0x0000 [0xE5, 0xD0] true)) =
    some ([none], some 0x0002, true) := by decide
-- UD-8
theorem test_step_ud_8 : look [0xE0] (step (demo [(0xD0, some 0x08), (0x8, some 0x31)] 0x0000 [0xE8] true)) =
    some ([some 0x31], some 0x0001, true) := by decide
-- UD-18
theorem test_step_ud_18 : look [0x81, 0xD0] (step (demo [(0x81, some 0x30)] 0x0000 [0xD0, 0xD0])) =
    some ([some 0x2F, none], some 0x0002, false) := by decide
-- 95_test_vectors.md 2.4
theorem test_step_add_carry : look [0xE0, 0xD0] (step (demo [(0xE0, some 0xFF), (0xD0, some 0x00)] 0x0000 [0x24, 0x01])) =
    some ([some 0x00, some 0xC1], some 0x0002, false) := by decide
-- 95_test_vectors.md 2.4
theorem test_step_add_overflow : look [0xE0, 0xD0] (step (demo [(0xE0, some 0x80), (0xD0, some 0x00)] 0x0000 [0x24, 0x80])) =
    some ([some 0x00, some 0x85], some 0x0002, false) := by decide
-- 95_test_vectors.md 2.4
theorem test_step_addc_carry_in : look [0xE0, 0xD0] (step (demo [(0xE0, some 0x7F), (0xD0, some 0x80)] 0x0000 [0x34, 0x80])) =
    some ([some 0x00, some 0xC1], some 0x0002, false) := by decide
-- 95_test_vectors.md 2.4
theorem test_step_subb_borrow : look [0xE0, 0xD0] (step (demo [(0xE0, some 0x7F), (0xD0, some 0x00)] 0x0000 [0x94, 0xFF])) =
    some ([some 0x80, some 0x84], some 0x0002, false) := by decide
-- 95_test_vectors.md 2.4
theorem test_step_subb_borrow_in : look [0xE0, 0xD0] (step (demo [(0xE0, some 0x00), (0xD0, some 0x80)] 0x0000 [0x94, 0xFF])) =
    some ([some 0x00, some 0xC1], some 0x0002, false) := by decide

/-! ## Errors (section 2.12 of the vectors; the state stays the host's, R410) -/

-- ER-1
theorem test_error_er_1 : faultOf (step State.reset) = some (.undefinedFetch (some 0x0000)) := by decide
-- ER-2
theorem test_error_er_2 :
    faultOf (step (demo [] 0x0010 [0xA5])) = some (.invalidInstruction 0xA5 (some 0x0010)) := by decide
-- ER-3
theorem test_error_er_3 : faultOf (step (demo [] 0x0000 [0x24])) = some (.undefinedFetch (some 0x0001)) := by decide
-- ER-4
theorem test_error_er_4 : faultOf (step (demo [] 0xFFFF [0x02])) = some (.truncatedInstruction 2 1) := by decide
-- ER-5
theorem test_error_er_5 :
    faultOf (step (demo [(0xE0, some 0x01), (0x83, some 0x01)] 0x0000 [0xF0])) = some (.storeFault .sfr 0x0100) := by
  decide
-- ER-7
theorem test_error_er_7 :
    faultOf (step (demo [(0x81, none)] 0x0000 [0xC0, 0xE0])) = some (.undefinedAddress .stack) := by decide
-- ER-9
theorem test_error_er_9 : faultOf (step { State.reset with pc := none }) = some (.undefinedFetch none) := by decide
-- UD-15
theorem test_error_ud_15 :
    faultOf (step (demo [(0xE0, some 0x11)] 0x0000 [0xF6])) = some (.undefinedAddress (.operand 0)) := by decide
-- UD-19
theorem test_error_ud_19 :
    faultOf (step (demo [(0xD0, none)] 0x0003 [0xF8])) = some (.undefinedAddress (.register 0)) := by decide

/-! ## The host's transactions -/

/-- REF with a STATUS_REG that has no descriptor. -/
def noStatus : Block := { ref with cfg := { refCfg with statusReg := 13 } }

/-- What a transaction answers, when it answers. -/
def replyOf (r : State × Except Fault Reply) : Option Reply :=
  match r.2 with
  | .ok a => some a
  | .error _ => none

/-- The error of a transaction. -/
def errorOf (r : State × Except Fault Reply) : Option Fault :=
  match r.2 with
  | .ok _ => none
  | .error e => some e

-- ER-10
theorem test_execute_unknown_iid :
    errorOf (serve ref (.execute ⟨0x50, 41, 0, 0, 1, [], 0⟩) State.reset) = some (.unsupportedInstruction 41) := by decide
theorem test_execute_reads_no_pc :
    (serve ref (.execute ⟨0x50, 1, 0, 0, 1, [], 0⟩) { State.reset with pc := none }).1.pc = some 0x0051 := by decide
-- ER-11
theorem test_get_absent_register :
    errorOf (serve ref (.rfGet 13) State.reset) = some (.malformedTable (.register 13)) := by decide
/-- A CFG whose STATUS_REG has no descriptor (log entry 10): reported at construction, met by a flag read, a flag write
and a bank select. -/
theorem test_absent_status_register :
    noStatus.defect = some (.register 13) ∧
    errorOf (serve noStatus (.execute ⟨0x50, 33, 0, 0, 2, [.rel 4], 0⟩) State.reset) = some (.malformedTable (.register 13)) ∧
    errorOf (serve noStatus (.execute ⟨0x50, 18, 0, 0, 1, [], 0⟩) State.reset) = some (.malformedTable (.register 13)) ∧
    errorOf (serve noStatus (.rfSet 0 (.byte 1)) State.reset) = some (.malformedTable (.register 13)) ∧
    errorOf (serve noStatus (.rfGet 8) State.reset) = none := by decide
/-- A STATUS_REG that is not one Direct byte, DPTR here (log entry 10). -/
theorem test_split_status_register :
    statusCell { ref with cfg := { refCfg with statusReg := 11 } } = .error (.malformedTable (.register 11)) := by decide
-- ER-12
theorem test_load_unknown_segment :
    errorOf (serve ref (.load (.other 0) 0 [0x00]) State.reset) = some (.unknownSegment (.other 0)) := by decide
theorem test_load_nothing_of_unknown_segment :
    errorOf (serve ref (.load (.other 0) 0 []) State.reset) = some (.unknownSegment (.other 0)) := by decide
theorem test_load_below_window :
    errorOf (serve ref (.load .sfr 0x7F [0x00]) State.reset) = some (.storeFault .sfr 0x7F) := by decide
theorem test_load_aliases :
    (serve ref (.load .sfr 0x80 [0x00]) State.reset).1 = (serve ref (.load .iram 0x80 [0x00]) State.reset).1 := by decide
-- S4: after an undefined addition PSW reads UNDEF and its stored bits are untouched
theorem test_peek_ignores_overlay :
    replyOf (serve ref (.peek .sfr 0xD0) { State.reset with uflags := true }) = some (.cell (some 0x00)) ∧
      replyOf (serve ref (.rfGet 9) { State.reset with uflags := true }) = some (.value .undef) := by decide
-- 2.10 of the vectors
theorem test_branches_conditional :
    replyOf (serve ref (.getBranches ((Instr.jc 5).opcode 0x0200) false) State.reset) =
      some (.edges [⟨some 0x0202, 3⟩, ⟨some 0x0207, 2⟩]) := by decide
theorem test_branches_indirect :
    replyOf (serve ref (.getBranches (Instr.jmpADptr.opcode 0x0000) true) (demo [(0xE0, some 0x10), (0x83, none)] 0 [])) =
      some (.edges [⟨none, 8⟩]) ∧
    replyOf (serve ref (.getBranches (Instr.jmpADptr.opcode 0x0000) false) State.reset) = some (.edges []) := by decide
theorem test_reset_transaction : resetBlock ref = State.reset := by decide

/-! ## The other value of THRESH_SCOPE -/

-- SG-2
theorem test_narrow_sg_2 :
    (stepBlock refNarrow (demo [(0xE0, some 0x42), (0x00, some 0x90)] 0x0000 [0xF2])).toOption.map
      (fun t => (t.store.read 0x190, t.store.read 0x90)) = some (some 0x42, none) := by decide
-- SG-6
theorem test_narrow_sg_6 :
    (stepBlock refNarrow (demo [(0xE0, some 0xE0), (0x101E0, some 0x11)] 0x0000 [0x93])).toOption.map
      (fun t => t.store.read 0xE0) = some (some 0x11) := by decide

/-! ## Text (R119, R120; the texts of the vectors) -/

theorem test_text_cjne : renderText ref ((Instr.cjneAImm 0x10 (-3)).opcode 0x0100) = "cjne A, #0x10, 0x0100" := by decide
theorem test_text_anl_bit : renderText ref ((Instr.anlCNbit 0x23).opcode 0) = "anl C, /0x24.3" := by decide
theorem test_text_mov_bit : renderText ref ((Instr.movBitC 0x23).opcode 0) = "mov 0x24.3, C" := by decide
theorem test_text_movc : renderText ref (Instr.movcAPc.opcode 0x20) = "movc A, @A+PC" := by decide

theorem test_text_pointer_format :
    renderText { ref with cfg := { refCfg with ptrFormat := fun a => "$" ++ String.ofList (hexDigits 4 a.toNat) } }
      ((Instr.ljmp 0x1234).opcode 0) = "ljmp $1234" := by decide

/-! ## The package's own conditions -/

theorem test_with_fetch_word : look [0xE0] (step (State.reset.withFetchWord 16 0x5A74)) =
    some ([some 0x5A], some 0x0002, false) := by decide
theorem test_with_fetch_word_pc_kept : (State.reset.withFetchWord 24 0xFD10B4).pc = some 0x0000 := by decide
theorem test_core_runs_nothing_from_reset :
    faultOf (Sys2Proof.core.step Sys2Proof.core.reset) = some (.undefinedFetch (some 0x0000)) := by decide

/-! ## Witnesses: concrete terms that meet the hypotheses of each statement -/

theorem witness_encodeThenDecode : (Instr.sjmp (-128)).WellFormed = true ∧ (Instr.djnzDir 0xFF 127).WellFormed = true := by
  decide
theorem witness_decodeThenEncode : decodeInstr [0xD5, 0x30, 0xFD, 0x00] = .ok (.djnzDir 0x30 (-3)) := by decide
theorem witness_truncatedEncodings :
    (Instr.cjneAImm 0x10 (-3)).WellFormed = true ∧ 2 < (Instr.cjneAImm 0x10 (-3)).length := by decide
/-- The last address at which a three-byte instruction fits. -/
theorem witness_stepRunsDecoded :
    let s := demo [] 0xFFFD [0xB4, 0x10, 0xFD]
    (Instr.cjneAImm 0x10 (-3)).WellFormed = true ∧ s.pc = some 0xFFFD ∧
      (0xFFFD : Word).toNat + (Instr.cjneAImm 0x10 (-3)).length ≤ 0x10000 ∧
      ∀ j, j < (Instr.cjneAImm 0x10 (-3)).length →
        s.store.read (0x10100 + (0xFFFD : Word).toNat + j) = (encode (.cjneAImm 0x10 (-3)))[j]? := by decide
theorem witness_execIsExecute : State.reset.pc = some 0x0000 := by decide
theorem witness_stepFetchErrors :
    ({ State.reset with pc := none } : State).pc = none ∧
    State.reset.pc = some 0x0000 ∧ State.reset.store.read (0x10100 + (0x0000 : Word).toNat) = none ∧
    (demo [] 0xFFFF [0xA5]).pc = some 0xFFFF ∧
      (demo [] 0xFFFF [0xA5]).store.read (0x10100 + (0xFFFF : Word).toNat) = some 0xA5 := by decide
/-- The last cell of an instruction that ends at 0xFFFF is UNDEF (compare ER-3). -/
theorem witness_stepFetchErrors_operand :
    let s := demo [] 0xFFFD [0xB4, 0x10]
    (Instr.cjneAImm 0x10 (-3)).WellFormed = true ∧ s.pc = some 0xFFFD ∧ 2 < (Instr.cjneAImm 0x10 (-3)).length ∧
      (0xFFFD : Word).toNat + (Instr.cjneAImm 0x10 (-3)).length ≤ 0x10000 ∧
      (∀ m, m < 2 → s.store.read (0x10100 + (0xFFFD : Word).toNat + m) = (encode (.cjneAImm 0x10 (-3)))[m]?) ∧
      s.store.read (0x10100 + (0xFFFD : Word).toNat + 2) = none := by decide
/-- The same instruction one byte later; its second operand is past the window (compare ER-4). -/
theorem witness_stepFetchErrors_window :
    let s := demo [] 0xFFFE [0xB4, 0x10]
    s.pc = some 0xFFFE ∧ 0x10000 < (0xFFFE : Word).toNat + (Instr.cjneAImm 0x10 (-3)).length ∧
      (∀ m, m < 2 → s.store.read (0x10100 + (0xFFFE : Word).toNat + m) = (encode (.cjneAImm 0x10 (-3)))[m]?) ∧
      faultOf (step s) = some (.truncatedInstruction 1 2) := by decide
theorem witness_stepKeepsInvariant :
    (demo [] 0 [0x74, 0x5A]).Inv ∧ (nextOf (step (demo [] 0 [0x74, 0x5A]))).isSome = true := by decide
/-- At the first offset the statement speaks of, XRAM 0x0080, holding a byte. -/
theorem witness_codeAndHighXramNeverWritten :
    (nextOf (step (demo [(0x180, some 0x12)] 0 [0x74, 0x5A]))).isSome = true ∧
      (demo [(0x180, some 0x12)] 0 [0x74, 0x5A]).store.read 0x180 = some 0x12 := by decide
theorem witness_execFrame :
    (nextOf (exec (.push 0xE0) State.reset)).isSome = true ∧ 0x07 ∉ writtenCells (.push 0xE0) State.reset ∧
      writtenCells (.push 0xE0) State.reset = [0x81, 0x08] := by decide
/-- One instruction that writes no flag, one with the status byte UNDEF, one that writes all four flags. -/
theorem witness_flagFrame :
    ((nextOf (exec (.incDir 0x30) State.reset)).isSome = true ∧ 0xD0 ∉ resultCells (.incDir 0x30) State.reset ∧
      writesFlags (.incDir 0x30) = false) ∧
    ((nextOf (exec .setbC (demo [(0xD0, none)] 0 []))).isSome = true ∧ 0xD0 ∉ resultCells .setbC (demo [(0xD0, none)] 0 []) ∧
      psw (demo [(0xD0, none)] 0 []) = none) ∧
    ((nextOf (exec (.addAImm 1) State.reset)).isSome = true ∧ 0xD0 ∉ resultCells (.addAImm 1) State.reset ∧
      psw State.reset = some 0x00 ∧ writesFlags (.addAImm 1) = true) := by decide
/-- The data address 0x00FF completes and 0x0100 does not; an UNDEF stack pointer and an UNDEF pointer stop. -/
theorem witness_execRaises :
    raises .movxADptr 0 (demo [(0x82, some 0xFF)] 0 []) = none ∧
    raises .movxADptr 0 (demo [(0x83, some 0x01)] 0 []) = some (.storeFault .sfr 0x0100) ∧
    raises (.lcall 0x1234) 0 (demo [(0x81, none)] 0 []) = some (.undefinedAddress .stack) ∧
    raises (.movIndA 1) 0 State.reset = some (.undefinedAddress (.operand 0)) := by decide
theorem witness_stepErrors : faultOf (step (demo [(0x83, some 0x01)] 0 [0xE0])) = some (.storeFault .sfr 0x0100) := by decide
theorem witness_transactionsAreAtomic :
    errorOf (serve ref (.load .iram 0xFF [0x01, 0x02]) State.reset) = some (.storeFault .iram 0x100) := by decide
theorem witness_unsupportedIid :
    (⟨0, 0, 0, 0, 1, [], 0⟩ : Opcode).iid = 0 ∧ 40 < (⟨0, 41, 0, 0, 1, [], 0⟩ : Opcode).iid.toNat := by decide
theorem witness_bankAliasing :
    psw (demo [(0xD0, some 0x18)] 0 []) = some 0x18 ∧ (0x10 : Byte) &&& 0x18 ≠ (0x18 : Byte) &&& 0x18 := by decide
theorem witness_registerAliases : psw (demo [(0xD0, some 0x08)] 0 []) = some 0x08 := by decide
theorem witness_absentRegister : ref.cfg.registers[13]? = none ∧ ref.cfg.registers[12]?.isSome = true ∧
    (RegDesc.mk "X" 1 (.split [0x83, 0x82] true) false none).WellFormed = false ∧
    noStatus.cfg.registers[noStatus.cfg.statusReg]? = none ∧
    (RegDesc.mk "R0" 1 (.direct 0) true none).banked = true := by decide
theorem witness_statusReads : stackPtr (demo [(0x81, some 0xD0)] 0 []) = some 0xD0 := by decide
/-- A status byte and none; flag writes with an undefined flag, with all four defined, with some. -/
theorem witness_flagWrites :
    psw State.reset = some 0x00 ∧ psw (demo [(0xD0, none)] 0 []) = none ∧
    (writeFlags ref { c := some none, p := some (some true) } State.reset).uflags = true ∧
    (writeFlags ref ⟨some (some true), some (some true), some (some true), some (some true)⟩
      (demo [] 0 [] true)).uflags = false ∧
    (writeFlags ref { p := some (some true) } (demo [] 0 [] true)).uflags = true := by decide
theorem witness_bitAccess :
    State.reset.store.read 0x30 = none ∧ State.reset.store.read 0x81 = some 0x07 ∧
      (putBit 0x81 7 (some true) State.reset).store.read 0x81 = some 0x87 := by decide
/-- The boundary addresses of the three ranges. -/
theorem witness_thresholdScope :
    locate ref (sel ref .xdata .indirect 0x7F) 0x7F = .ok 0x17F ∧
    locate ref (sel ref .xdata .indirect 0x80) 0x80 = .ok 0x80 ∧
    locate ref (sel ref .code .indexed 0xFF) 0xFF = .ok 0xFF ∧
    locate ref (sel ref .code .indexed 0x100) 0x100 = .error (.storeFault .sfr 0x100) ∧
    locate refNarrow (sel refNarrow .code .indexed 0xFFFF) 0xFFFF = .ok 0x200FF ∧
    locate refNarrow (sel refNarrow .idata .indirect 0xFF) 0xFF = .ok 0xFF ∧
    locate refNarrow (sel refNarrow .idata .stack 0x100) 0x100 = .error (.storeFault .iram 0x100) ∧
    locate refNarrow (sel refNarrow .xdata .direct 0x80) 0x80 = .ok 0x80 := ⟨rfl, rfl, rfl, rfl, rfl, rfl, rfl, rfl⟩
/-- REF with a read hook on R3 and a write hook on R4, both replacing. -/
def hookedBlock : Block :=
  { ref with
    hookMode := fun i => if i = 3 ∨ i = 4 then .replace else .none
    readHook := fun i => if i = 3 then some fun _ => .byte 0x5A else none
    writeHook := fun i => if i = 4 then some fun _ _ => () else none }

theorem witness_registerHooks :
    (hookedBlock.cfg.registers[3]?.map RegDesc.WellFormed) = some true ∧ hookedBlock.hookMode 3 = .replace ∧
      (hookedBlock.readHook 3).isSome = true ∧ (hookedBlock.writeHook 4).isSome = true ∧
      (hookedBlock.writeHook 3).isNone = true ∧ hookedBlock.hookMode 5 ≠ .replace := by decide
-- R42, R177: one hook replaces its own direction only
theorem test_hooks_are_separate :
    (regGet hookedBlock 3 State.reset).toOption = some (.byte 0x5A) ∧
      ((regSet hookedBlock 3 (.byte 0x11) State.reset).toOption.map fun t => t.store.read 0x03) = some (some 0x11) ∧
      (regGet hookedBlock 4 State.reset).toOption = some .undef ∧
      (regSet hookedBlock 4 (.byte 0x11) State.reset).toOption = some State.reset := by decide
theorem witness_loadThenPeek : 0xFFFE + ([0x12, 0x34] : List Byte).length ≤ 0x10000 ∧
    ∀ g ∈ ref.cfg.segments, g.name ≠ .other 0 := by decide
theorem witness_undefPropagates :
    arith aluAdd (.byte 0) .undef (some false) = (.undef, undefFlags) ∧ aluBand (some false) none = none := by decide

/-- R1 of bank 0 points at 0xFF. -/
def pointing : State := demo [(0x01, some 0xFF), (0xFF, some 0x21)] 0x0100 []

theorem witness_movBytes :
    movForm (.movIndImm 1 0x5A) = some (.ind 1, .imm 0x5A) ∧ pointing.pc = some 0x0100 ∧
      ByteLoc.offset pointing (.ind 1) = some 0xFF ∧
    movForm (.movRnA 7) = some (.rn 7, .loc .acc) ∧ ByteLoc.offset pointing (.rn 7) = some 0x07 := by decide
theorem witness_dptrForms : pointing.pc = some 0x0100 ∧ dptr pointing = some 0x0000 := by decide
theorem witness_movxReads :
    dptr (demo [(0x83, none)] 0 []) = none ∧
    (dptr (demo [(0x82, some 0x7F)] 0 []) = some 0x7F ∧ xdataOffset 0x7F = some 0x17F) ∧
    (dptr (demo [(0x82, some 0x80)] 0 []) = some 0x80 ∧ xdataOffset 0x80 = some 0x80) ∧
    xdataOffset 0xFF = some 0xFF ∧ xdataOffset 0x100 = none := by decide
theorem witness_movxWrites :
    (dptr (demo [(0x82, some 0xFF)] 0 []) = some 0xFF ∧ xdataOffset 0xFF = some 0xFF) ∧
    rnCell 1 pointing = some 0xFF ∧ xdataOffset ((0xFF : Byte).zeroExtend 16) = some 0xFF := by decide
theorem witness_movcReads :
    accPlus (dptr (demo [(0xE0, none)] 0 [])) (demo [(0xE0, none)] 0 []) = none ∧
    ((demo [] 0x007E []).pc = some 0x007E ∧ accPlus (some (0x007E + 1)) (demo [] 0x007E []) = some 0x7F ∧
      codeDataOffset 0x7F = some 0x1017F) ∧
    ((demo [] 0x00FE []).pc = some 0x00FE ∧ accPlus (some (0x00FE + 1)) (demo [] 0x00FE []) = some 0xFF ∧
      codeDataOffset 0xFF = some 0xFF) := by decide
theorem witness_pushAndPop : stackPtr pointing = some 0x07 ∧ stackPtr (demo [(0x81, none)] 0 []) = none := by decide
theorem witness_xchBytes : xchForm (.xchAInd 1) = some (.ind 1) ∧ ByteLoc.offset pointing (.ind 1) = some 0xFF ∧
    pointing.pc = some 0x0100 := by decide
theorem witness_arithmeticOnA : arithForm (.subbARn 2) = some (.subb, .loc (.rn 2)) ∧ pointing.pc = some 0x0100 := by decide
theorem witness_logicBytes : logicForm (.orlDirA 0xD0) = some (.orl, .dir 0xD0, .loc .acc) ∧ pointing.pc = some 0x0100 := by
  decide
theorem witness_incDecBytes : stepForm (.decInd 1) = some (.ind 1, -1) ∧ ByteLoc.offset pointing (.ind 1) = some 0xFF ∧
    pointing.pc = some 0x0100 := by decide
theorem witness_carryRewrites : carryForm pointing .cplC = some (some true) ∧ pointing.pc = some 0x0100 := by decide
theorem witness_bitWrites : bitForm pointing (.movBitC 0xFF) = some (0xFF, some false) ∧ pointing.pc = some 0x0100 := by
  decide
/-- With the stack pointer at 0x80 the first push overwrites it. -/
theorem witness_longCall :
    stackPtr (demo [(0x81, some 0x80)] 0x0100 []) = some 0x80 ∧
      stackPtr (pushed 0x80 (some 0x03) (demo [(0x81, some 0x80)] 0x0100 [])) = some 0x03 ∧
      stackPtr (demo [(0x81, some 0xFF)] 0x0100 []) = some 0xFF := by decide
theorem witness_return : (popped pointing).1 = none ∧ pointing.pc = some 0x0100 := by decide
theorem witness_conditionalBranches :
    branchForm pointing (.jz (-128)) = some (some true, -128) ∧
      branchForm (demo [] 0 [] true) (.jnc 127) = some (none, 127) ∧ pointing.pc = some 0x0100 := by decide
theorem witness_compareAndBranch : cjneForm (.cjneIndImm 1 0x21 5) = some (.ind 1, .imm 0x21, 5) ∧ pointing.pc = some 0x0100 := by
  decide
theorem witness_decrementAndBranch :
    djnzForm (.djnzRn 1 (-2)) = some (.rn 1, -2) ∧ ByteLoc.offset pointing (.rn 1) = some 0x01 ∧
      pointing.pc = some 0x0100 := by decide
theorem witness_undefinedDestinationTraps :
    (destForm (.movIndA 0) = some (.ind 0, 0) ∧ ByteLoc.offset State.reset (.ind 0) = none) ∧
    (destForm (.incRn 3) = some (.rn 3, 0) ∧ ByteLoc.offset (demo [(0xD0, none)] 0 []) (.rn 3) = none) ∧
    rnCell 1 State.reset = none ∧ (demo [(0x83, none)] 0 []).store.read 0x83 = none := by decide
/-- `lcall 0x0300` at 0x0010 from reset; the later state is the one the call leaves. -/
theorem witness_callReturnRoundTrip :
    let s := demo [] 0x0010 []
    stackPtr s = some 0x07 ∧ ((nextOf (exec (.lcall 0x0300) s)).map fun u => (stackPtr u, u.pc)) =
      some (some 0x09, some 0x0300)
      ∧ s.pc = some 0x0010 ∧ ∃ u, exec (.lcall 0x0300) s = .next u ∧ u.pc ≠ none := ⟨rfl, by decide, rfl, _, rfl, by decide⟩
theorem witness_controlFlowIsSound :
    (nextOf (exec (.jc 5) (demo [] 0 [] true))).map (·.pc) = some none ∧
      (nextOf (exec .jmpADptr (demo [(0x83, none)] 0 []))).map (·.pc) = some none ∧
      getBranches ref (Instr.jmpADptr.opcode 0) (some (demo [(0x83, none)] 0 [])) = .ok [⟨none, 8⟩] :=
  ⟨by decide, by decide, rfl⟩

end Sys2Proof.Tests
end

section
/-! PROOFS. What a transaction can do to the state, said once: it ends in a state reached by cell writes, bit writes,
flag writes and writes of PCCELL. Invariants and frames are inductions on such a chain of updates. -/

namespace Sys2Proof.Machine

/-! ## Chains of updates -/

/-- `t` is reached from `s` by cell and bit writes at offsets in `cells`, flag writes in `flags` and writes of PCCELL
(R39, R69 to R71, R193). -/
inductive Updates (k : Block) (cells : Nat → Prop) (flags : FlagWrite → Prop) (s : State) : State → Prop
  | refl : Updates k cells flags s s
  | cell {u : State} {p : Nat} (v : Cell) (hp : cells p) (h : Updates k cells flags s u) :
      Updates k cells flags s (putCell k p v u)
  | bit {u : State} {p : Nat} (b : Nat) (v : Option Bool) (hp : cells p) (h : Updates k cells flags s u) :
      Updates k cells flags s (putBit p b v u)
  | flags {u : State} {w : FlagWrite} (hw : flags w) (h : Updates k cells flags s u) :
      Updates k cells flags s (writeFlags k w u)
  | pc {u : State} (q : Option Word) (h : Updates k cells flags s u) : Updates k cells flags s { u with pc := q }

/-- An offset some logical address of a segment of the block is at (R62, R64). -/
def Located (k : Block) (p : Nat) : Prop := ∃ n a, locate k n a = .ok p

/-- `t` is reached from `s` by updates inside the block's segments, with any flag writes. -/
abbrev Touched (k : Block) (s t : State) : Prop := Updates k (Located k) (fun _ => True) s t

/-! ## Computations that may end in an error -/

/-- Every result the computation can succeed with has the property. -/
def Yields {α : Type} (P : α → Prop) (r : Except Fault α) : Prop := ∀ a, r = .ok a → P a

namespace Yields

variable {α β : Type} {P : α → Prop} {Q : β → Prop}

theorem ok {a : α} (h : P a) : Yields P (.ok a) := by
  rintro _ ⟨⟩
  exact h

theorem error (e : Fault) : Yields P (.error e) := nofun

theorem bind {r : Except Fault α} {f : α → Except Fault β} (hr : Yields P r) (hf : ∀ a, P a → Yields Q (f a)) :
    Yields Q (r >>= f) := by
  intro b hb
  obtain ⟨a, ha, hfa⟩ := except_bind_ok.1 hb
  exact hf a (hr a ha) b hfa

/-- A computation that only reads may be followed by anything that has the property whatever was read. -/
theorem read {r : Except Fault α} {f : α → Except Fault β} (hf : ∀ a, Yields Q (f a)) : Yields Q (r >>= f) :=
  bind (P := fun _ => True) (fun _ _ => trivial) fun a _ => hf a

theorem fall {P : State → Prop} {r : Except Fault State} (h : Yields P r) :
    Yields (fun x => P x.1) (Machine.fall r) := by
  cases r with
  | ok u => exact ok (h u rfl)
  | error e => exact error e

end Yields

/-! ## The shared operations of any block -/

section
variable {k : Block} {s u : State}

theorem memWrite_touched (hu : Touched k s u) (n : SegName) (a : Nat) (v : Cell) :
    Yields (Touched k s) (memWrite k n a v u) :=
  Yields.bind (P := Located k) (fun _ hp => ⟨n, a, hp⟩) fun _ hp => .ok (hu.cell v hp)

theorem memWriteBit_touched (hu : Touched k s u) (n : SegName) (a b : Nat) (v : Option Bool) :
    Yields (Touched k s) (memWriteBit k n a b v u) :=
  Yields.bind (P := Located k) (fun _ hp => ⟨n, a, hp⟩) fun _ hp => .ok (hu.bit b v hp)

theorem writeRegBytes_touched (cells : List (Nat × Cell)) (hu : Touched k s u) :
    Yields (Touched k s) (writeRegBytes k cells u) := by
  induction cells generalizing u with
  | nil => exact .ok hu
  | cons x cells ih => exact .bind (memWrite_touched hu _ _ _) fun _ ht => ih ht

theorem regSetDefault_touched (hu : Touched k s u) (idx : Nat) (d : RegDesc) (v : Val) :
    Yields (Touched k s) (regSetDefault k idx d v u) := by
  unfold regSetDefault
  split
  · split
    · exact .ok (hu.pc _)
    · exact .error _
  · split
    · exact .error _
    · refine .read fun address => ?_
      cases address with
      | none => exact .error _
      | some a => exact writeRegBytes_touched _ hu
  · split
    · exact .error _
    · exact writeRegBytes_touched _ hu

/-- Whatever its hooks, a register write changes the block by register bytes or PCCELL only (R171, R177). -/
theorem regSet_touched (hu : Touched k s u) (idx : Nat) (v : Val) : Yields (Touched k s) (regSet k idx v u) := by
  unfold regSet
  split
  · exact .error _
  · rename_i d _
    have hd : Yields (Touched k s) (regSetDefault k idx d v u) := regSetDefault_touched hu idx d v
    split
    · split
      · exact .ok hu
      · exact .bind hd fun _ ht => .ok ht
      all_goals exact hd
    · exact .error _

theorem setAt_touched (hu : Touched k s u) (x : Ctx) (pos : Nat) (kind : AccessKind) (a : Option Word) (v : Val) :
    Yields (Touched k s) (setAt k x pos kind a v u) := by
  cases a with
  | none => exact .error _
  | some a => exact memWrite_touched hu _ _ _

/-- A write of an operand of any variant (R145, R146). -/
theorem setOp_touched (hu : Touched k s u) (x : Ctx) (pos : Nat) (op : Operand) (v : Val) :
    Yields (Touched k s) (setOp k x pos op v u) := by
  cases op with
  | reg idx => exact regSet_touched hu idx v
  | dir a => exact setAt_touched hu x pos .direct (some (a.zeroExtend 16)) v
  | ind idx => exact .read fun _ => setAt_touched hu x pos .indirect _ v
  | bit base b neg =>
    cases neg with
    | false => exact memWriteBit_touched hu _ _ _ _
    | true => exact .error _
  | imm8 | imm16 | rel | abs | idx => exact .error _

theorem push_touched (hu : Touched k s u) (v : Cell) : Yields (Touched k s) (push k v u) := by
  refine .read fun sp => ?_
  split
  · exact .error _
  · exact .bind (regSet_touched hu _ _) fun _ ht => memWrite_touched ht _ _ _

theorem pop_touched (hu : Touched k s u) : Yields (fun r => Touched k s r.2) (pop k u) := by
  refine .read fun sp => ?_
  split
  · exact .ok hu
  · exact .read fun _ => .bind (regSet_touched hu _ _) fun _ ht => .ok ht

theorem pushReturn_touched (hu : Touched k s u) (ra : Word) : Yields (Touched k s) (pushReturn k ra u) := by
  unfold pushReturn
  split <;> exact .bind (push_touched hu _) fun _ ht => push_touched ht _

/-- What every pop keeps, the two pops of a return keep (R215). -/
theorem popReturn_yields {P : State → Prop} (hpop : ∀ v, P v → Yields (fun r => P r.2) (pop k v)) (hu : P u) :
    Yields (fun r => P r.2) (popReturn k u) := by
  refine .bind (hpop u hu) fun r hr => .bind (hpop r.2 hr) fun q hq => ?_
  dsimp only
  split <;> exact .ok hq

theorem setFlags_touched (hu : Touched k s u) (w : FlagWrite) : Yields (Touched k s) (setFlags k w u) :=
  .read fun _ => .ok (hu.flags trivial)

theorem writeCarry_touched (hu : Touched k s u) (c : Option Bool) : Yields (Touched k s) (writeCarry k c u) :=
  .read fun _ => setFlags_touched hu _

theorem storeResult_touched (hu : Touched k s u) (x : Ctx) (op0 : Operand) (r : Val × FlagWrite) :
    Yields (fun r => Touched k s r.1) (storeResult k x op0 r u) :=
  .bind (setOp_touched hu x 0 op0 r.1) fun _ ht => .fall (setFlags_touched ht r.2)

/-- A jump changes no state of its own: PC is written after the handler (R193). -/
theorem jumpTo_yields {P : State → Prop} (hu : P u) (x : Ctx) (op : Operand) :
    Yields (fun r => P r.1) (jumpTo k x op u) := .read fun _ => .ok hu

theorem branch_yields {P : State → Prop} (hu : P u) (x : Ctx) (c : Option Bool) (op : Operand) :
    Yields (fun r => P r.1) (branch k x c op u) := by
  unfold branch
  split
  · exact .ok hu
  · exact jumpTo_yields hu x op
  · exact .ok hu

end

/-! ## The handlers and the transaction -/

section
variable {k : Block} {s : State} {P : State × Flow → Prop}

theorem with1_yields {f : Operand → State → Handled} (h : ∀ op0, Yields P (f op0 s)) (ops : List Operand) :
    Yields P (with1 ops f s) := by
  unfold with1
  split
  · exact h _
  · exact .error _

theorem with2_yields {f : Operand → Operand → State → Handled} (h : ∀ op0 op1, Yields P (f op0 op1 s))
    (ops : List Operand) : Yields P (with2 ops f s) := by
  unfold with2
  split
  · exact h _ _
  all_goals exact .error _

theorem with3_yields {f : Operand → Operand → Operand → State → Handled}
    (h : ∀ op0 op1 op2, Yields P (f op0 op1 op2 s)) (ops : List Operand) : Yields P (with3 ops f s) := by
  unfold with3
  split
  · exact h _ _ _
  all_goals exact .error _

/-- Every handler, on any operands in any block, reaches its state by updates inside the block's segments (R192). -/
theorem runHandler_touched (k : Block) (x : Ctx) (h : Iid) (ops : List Operand) (s : State) :
    Yields (fun r => Touched k s r.1) (runHandler k x h ops s) := by
  have h0 : Touched k s s := .refl
  cases h with
  | nop => exact .ok h0
  | mov | movx | movc => exact with2_yields (fun _ _ => .read fun _ => .fall (setOp_touched h0 _ _ _ _)) ops
  | push => exact with1_yields (fun _ => .read fun _ => .fall (push_touched h0 _)) ops
  | pop => exact with1_yields (fun _ => .bind (pop_touched h0) fun _ hr => .fall (setOp_touched hr _ _ _ _)) ops
  | xch =>
    exact with2_yields (fun _ _ => .read fun _ => .read fun _ => .bind (setOp_touched h0 _ _ _ _) fun _ ht =>
      .fall (setOp_touched ht _ _ _ _)) ops
  | add | anl | orl | xrl =>
    exact with2_yields (fun _ _ => .read fun _ => .read fun _ => storeResult_touched h0 _ _ _) ops
  | addc | subb =>
    exact with2_yields (fun _ _ => .read fun _ => .read fun _ => .read fun _ => storeResult_touched h0 _ _ _) ops
  | inc | dec | cplB | movBC => exact with1_yields (fun _ => .read fun _ => .fall (setOp_touched h0 _ _ _ _)) ops
  | clrA => exact with1_yields (fun _ => storeResult_touched h0 _ _ _) ops
  | cplA => exact with1_yields (fun _ => .read fun _ => storeResult_touched h0 _ _ _) ops
  | clrC | setbC => exact .fall (writeCarry_touched h0 _)
  | cplC => exact .read fun _ => .fall (writeCarry_touched h0 _)
  | clrB | setbB => exact with1_yields (fun _ => .fall (setOp_touched h0 _ _ _ _)) ops
  | movCB => exact with1_yields (fun _ => .read fun _ => .fall (writeCarry_touched h0 _)) ops
  | anlC | orlC => exact with1_yields (fun _ => .read fun _ => .read fun _ => .fall (writeCarry_touched h0 _)) ops
  | ljmp | sjmp => exact with1_yields (fun _ => jumpTo_yields h0 _ _) ops
  | jmpi => exact with1_yields (fun _ => .read fun t => .ok (a := (s, Flow.goto t)) h0) ops
  | lcall =>
    exact with1_yields (fun _ => .read fun t => .bind (pushReturn_touched h0 _) fun u hu =>
      .ok (a := (u, Flow.goto (valWord t))) hu) ops
  | ret => exact .bind (popReturn_yields (fun _ => pop_touched) h0) fun _ hr => .ok hr
  | jc | jnc | jz | jnz => exact with1_yields (fun _ => .read fun _ => branch_yields h0 _ _ _) ops
  | jb | jnb => exact with2_yields (fun _ _ => .read fun _ => branch_yields h0 _ _ _) ops
  | cjne =>
    exact with3_yields (fun _ _ _ => .read fun _ => .read fun _ => .bind (writeCarry_touched h0 _) fun _ ht =>
      branch_yields ht _ _ _) ops
  | djnz =>
    exact with2_yields (fun _ _ => .read fun _ => .bind (setOp_touched h0 _ _ _ _) fun _ ht =>
      branch_yields ht _ _ _) ops

theorem finish_touched (x : Ctx) {r : State × Flow} (h : Touched k s r.1) : Yields (Touched k s) (finish k x r) := by
  unfold finish
  split <;> exact regSet_touched h _ _

/-- The run of a handler and the write of the program counter after it (R193). -/
theorem transact_touched (x : Ctx) {f : Ctx → State → Handled} (hf : Yields (fun r => Touched k s r.1) (f x s)) :
    Yields (Touched k s) (transact k x f s) := by
  unfold transact
  split
  · next r hr => exact finish_touched x (hf r hr)
  · exact .error _

/-- `execute` of any Opcode, of REF or built by the host, in any block (R191). -/
theorem execute_touched (k : Block) (opc : Opcode) (s : State) : Yields (Touched k s) (execute k opc s) := by
  unfold execute
  split
  · exact .error _
  · exact transact_touched _ (runHandler_touched k _ _ _ s)

end

/-! ## From an instruction to the handler of its iid -/

theorem exec_runHandler (i : Instr) (s : State) :
    exec i s = runForm i.iid i.length (fun x => runHandler ref x i.iid i.operands) s := by
  cases i <;> rfl

theorem settle_next {r : Except Fault State} {t : State} (h : settle r = .next t) : r = .ok t := by
  cases r with
  | ok u => cases h; rfl
  | error e => cases h

theorem exec_touched {i : Instr} {s t : State} (h : exec i s = .next t) : Touched ref s t := by
  obtain ⟨va, hva⟩ := exec_pc h
  rw [exec_runHandler, runForm, hva] at h
  exact transact_touched _ (runHandler_touched ref _ _ _ s) t (settle_next h)

/-- Whatever Opcode stands at PC, a step of REF reaches its state by updates inside the segments (R190). -/
theorem step_touched {s t : State} (h : step s = .next t) : Touched ref s t := by
  unfold step at h
  split at h
  · cases h
  · split at h
    · exact exec_touched h
    · exact execute_touched ref _ s t (settle_next h)

/-! ## The invariant of STORE -/

/-- Every window of REF lies inside STORE (R24, R45). -/
theorem located_ref_lt {p : Nat} (h : Located ref p) : p < refStoreSize := by
  obtain ⟨n, a, h⟩ := h
  unfold refStoreSize
  cases n with
  | iram | sfr | xram | code =>
    simp only [locate, resolve_iram, resolve_sfr, resolve_xram, resolve_code] at h
    split at h
    · cases h; omega
    · cases h
  | other id => exact absurd h nofun

theorem inv_write {s : State} {p : Nat} (v : Cell) (hp : p < refStoreSize) (h : s.Inv) :
    (s.store.write p v).wf ∧ (s.store.write p v).inStore :=
  ⟨Memory.wf_write _ p v h.1, Memory.inStore_write _ p v hp h.2⟩

theorem inv_putBit {s : State} {p : Nat} (b : Nat) (v : Option Bool) (hp : p < refStoreSize) (h : s.Inv) :
    (putBit p b v s).Inv := by
  unfold putBit
  split
  · exact inv_write none hp h
  · split
    · exact h
    · exact inv_write (some (setBit _ b _)) hp h

theorem inv_writeFlags (w : FlagWrite) {s : State} (h : s.Inv) : (writeFlags ref w s).Inv := by
  unfold State.Inv
  rw [writeFlags_store]
  split
  · exact inv_write _ (by decide) h
  · exact h

/-- Updates inside STORE keep it canonical and within its size. -/
theorem Updates.inv {cells : Nat → Prop} {flags : FlagWrite → Prop} {s t : State}
    (hc : ∀ p, cells p → p < refStoreSize) (h : Updates ref cells flags s t) (hs : s.Inv) : t.Inv := by
  induction h with
  | refl => exact hs
  | cell v hp _ ih => exact inv_write v (hc _ hp) ih
  | bit b v hp _ ih => exact inv_putBit b v (hc _ hp) ih
  | flags _ _ ih => exact inv_writeFlags _ ih
  | pc _ _ ih => exact ih

/-- Settles O12: every transaction is a chain of updates inside the segments, and each of them keeps the invariant. -/
theorem stepKeepsInvariant : Obligations.StepKeepsInvariant :=
  fun _ _ hs h => (step_touched h).inv (fun _ => located_ref_lt) hs

/-- Settles O13: the five listed offsets of the reset state. -/
theorem resetInvariant : Obligations.ResetInvariant := by
  unfold Obligations.ResetInvariant
  decide

end Sys2Proof.Machine
end

section
/-! PROOFS. The flag write bit by bit (R39), and the updates of each instruction of REF: its result cells and flags
(R211), from which its frame follows. -/

namespace Sys2Proof.Machine

/-! ## Bits of the status byte -/

/-- A byte with one bit replaced, bit by bit. -/
theorem getLsbD_setBit (x : Byte) {b : Nat} (v : Bool) (hb : b < 8) (j : Nat) :
    (setBit x b v).getLsbD j = if j = b then v else x.getLsbD j := by
  have hmask : ((1 <<< b : Nat) : Byte) = (1 : Byte) <<< b := BitVec.eq_of_toNat_eq (by simp)
  have hbit : ((1 : Byte) <<< b).getLsbD j = decide (j = b) := by
    simp only [BitVec.ofNat_eq_ofNat, BitVec.getLsbD_shiftLeft, BitVec.getLsbD_one]
    rw [Bool.eq_iff_iff]
    simp
    omega
  have hj : x.getLsbD j = true → j < 8 := BitVec.lt_of_getLsbD
  rw [Bool.eq_iff_iff]
  cases v with
  | false =>
    simp only [setBit, Bool.false_eq_true, if_false, BitVec.getLsbD_and, BitVec.getLsbD_not, hbit]
    by_cases h : j = b <;> simp [h]
    simpa using hj
  | true =>
    simp only [setBit, if_true, BitVec.getLsbD_or, hmask, hbit]
    by_cases h : j = b <;> simp [h]

/-- A bit number is one of the four flags' (R34) or none of them. -/
theorem flagBit_cases (j : Nat) : j = 7 ∨ j = 6 ∨ j = 2 ∨ j = 0 ∨ (j ≠ 7 ∧ j ≠ 6 ∧ j ≠ 2 ∧ j ≠ 0) := by omega

/-- The write of the flag at a bit of the status byte, if there is one (R34, R39). -/
def FlagWrite.at (w : FlagWrite) (j : Nat) : Option (Option Bool) :=
  if j = 7 then w.c else if j = 6 then w.ac else if j = 2 then w.ov else if j = 0 then w.p else none

/-- One stored flag: its bit takes a defined value, an `UNDEF` one and no write leave it (R39 step 1). -/
theorem getLsbD_storeFlag {pos : Nat} (hpos : pos < 8) (u : Option (Option Bool)) (b : Byte) (j : Nat) :
    (storeFlag pos u b).getLsbD j = if j = pos then u.join.getD (b.getLsbD j) else b.getLsbD j := by
  match u with
  | some (some v) => exact getLsbD_setBit b v hpos j
  | some none | none => simp [storeFlag]

theorem FlagWrite.getLsbD_byte (w : FlagWrite) (b : Byte) (j : Nat) :
    (w.byte refCfg b).getLsbD j = (w.at j).join.getD (b.getLsbD j) := by
  have hc : refCfg.cBit = 7 := rfl
  have hac : refCfg.acBit = 6 := rfl
  have hov : refCfg.ovBit = 2 := rfl
  have hp : refCfg.pBit = 0 := rfl
  simp only [FlagWrite.byte, FlagWrite.at, hc, hac, hov, hp]
  rw [getLsbD_storeFlag (by decide), getLsbD_storeFlag (by decide), getLsbD_storeFlag (by decide),
    getLsbD_storeFlag (by decide)]
  rcases flagBit_cases j with rfl | rfl | rfl | rfl | ⟨h7, h6, h2, h0⟩
  · simp
  · simp
  · simp
  · simp
  · simp [h7, h6, h2, h0]

theorem psw_writeFlags (w : FlagWrite) (s : State) : psw (writeFlags ref w s) = (psw s).map (w.byte refCfg) := by
  rw [psw_eq (writeFlags ref w s), writeFlags_store]
  cases h : psw s with
  | none => exact h
  | some b => simp

theorem read_writeFlags_ne (w : FlagWrite) (s : State) {q : Nat} (hq : q ≠ 0xD0) :
    (writeFlags ref w s).store.read q = s.store.read q := by
  rw [writeFlags_store]
  cases psw s with
  | none => rfl
  | some b => exact Memory.read_write_ne _ _ hq.symm

/-- UFLAGS after a flag write (R39 steps 2 to 4). -/
theorem FlagWrite.uflags_eq (w : FlagWrite) (u : Bool) :
    w.uflags u = if w.c = some none ∨ w.ac = some none ∨ w.ov = some none ∨ w.p = some none then true
      else if w.c ≠ none ∧ w.ac ≠ none ∧ w.ov ≠ none ∧ w.p ≠ none then false else u := by
  have hset : ∀ o : Option (Option Bool), o.isSome = true ↔ o ≠ none := fun o => Option.isSome_iff_ne_none
  simp only [FlagWrite.uflags, List.contains_eq_mem, List.mem_cons, List.not_mem_nil, or_false, decide_eq_true_eq,
    List.all_cons, List.all_nil, Bool.and_true, Bool.and_eq_true, hset, eq_comm (a := some none)]

/-- Settles O28: bit by bit through `FlagWrite.at`. -/
theorem flagWrites : Obligations.FlagWrites := by
  unfold Obligations.FlagWrites
  intro w s
  refine ⟨fun h => ?_, fun b hb => ⟨w.byte refCfg b, ?_, fun j => ?_⟩, w.uflags_eq s.uflags, rfl,
    fun q hq => read_writeFlags_ne w s hq⟩
  · rw [psw_writeFlags, h]; rfl
  · rw [psw_writeFlags, hb]; rfl
  · rw [w.getLsbD_byte]
    obtain ⟨c, ac, ov, p⟩ := w
    rcases flagBit_cases j with rfl | rfl | rfl | rfl | ⟨h7, h6, h2, h0⟩
    · rcases c with _ | _ | v <;> simp [FlagWrite.at]
    · rcases ac with _ | _ | v <;> simp [FlagWrite.at]
    · rcases ov with _ | _ | v <;> simp [FlagWrite.at]
    · rcases p with _ | _ | v <;> simp [FlagWrite.at]
    · simp [FlagWrite.at, h7, h6, h2, h0]

/-! ## The bits a flag write may change -/

/-- The status bits a flag write writes. -/
def FlagWrite.mask (w : FlagWrite) : Byte :=
  (if w.c.isSome then 0x80 else 0) ||| (if w.ac.isSome then 0x40 else 0) |||
    (if w.ov.isSome then 0x04 else 0) ||| (if w.p.isSome then 0x01 else 0)

theorem FlagWrite.getLsbD_mask {w : FlagWrite} {j : Nat} (h : (w.at j).isSome = true) : w.mask.getLsbD j = true := by
  obtain ⟨c, ac, ov, p⟩ := w
  rcases flagBit_cases j with rfl | rfl | rfl | rfl | ⟨h7, h6, h2, h0⟩
  · simp [FlagWrite.mask, show c.isSome = true from h]
  · simp [FlagWrite.mask, show ac.isSome = true from h]
  · simp [FlagWrite.mask, show ov.isSome = true from h]
  · simp [FlagWrite.mask, show p.isSome = true from h]
  · simp [FlagWrite.at, h7, h6, h2, h0] at h

/-- A flag write changes no bit of the status byte outside its mask (R39). -/
theorem FlagWrite.byte_outside_mask (w : FlagWrite) (b : Byte) :
    w.byte refCfg b &&& ~~~w.mask = b &&& ~~~w.mask := by
  refine BitVec.eq_of_getLsbD_eq fun j _ => ?_
  simp only [BitVec.getLsbD_and, BitVec.getLsbD_not, w.getLsbD_byte]
  cases h : w.at j with
  | none => rfl
  | some o => simp [getLsbD_mask (w := w) (j := j) (by rw [h]; rfl)]

/-! ## Frames of a chain of updates -/

theorem read_putBit_ne {p q : Nat} (hp : p ≠ q) (b : Nat) (v : Option Bool) (s : State) :
    (putBit p b v s).store.read q = s.store.read q := by
  unfold putBit
  split
  · exact Memory.read_write_ne s.store none hp
  · split
    · rfl
    · exact Memory.read_write_ne s.store (some (setBit _ b _)) hp

section
variable {cells : Nat → Prop} {flags : FlagWrite → Prop} {s t : State}

/-- Without a flag write and without a store to the status byte UFLAGS is unchanged (R40). -/
theorem Updates.uflags_eq (hc : ¬ cells 0xD0) (hf : ∀ w, ¬ flags w) (h : Updates ref cells flags s t) :
    t.uflags = s.uflags := by
  induction h with
  | refl => rfl
  | @cell u p v hp _ ih =>
    have hne : p ≠ 0xD0 := fun e => hc (e ▸ hp)
    simp [hne, ih]
  | bit b v _ _ ih => rw [putBit_uflags, ih]
  | flags hw _ _ => exact absurd hw (hf _)
  | pc _ _ ih => exact ih

/-- Flag writes of one mask, without a store to the status byte, keep it `UNDEF` or keep its other bits (R39). -/
theorem Updates.psw_outside_mask {m : Byte} (hc : ¬ cells 0xD0) (hf : ∀ w, flags w → w.mask = m)
    (h : Updates ref cells flags s t) : (psw t).map (· &&& ~~~m) = (psw s).map (· &&& ~~~m) := by
  induction h with
  | refl => rfl
  | @cell u p v hp _ ih =>
    have hne : p ≠ 0xD0 := fun e => hc (e ▸ hp)
    rw [putCell_ref, psw_putData_ne p v u hne, ih]
  | @bit u p b v hp _ ih =>
    have hne : p ≠ 0xD0 := fun e => hc (e ▸ hp)
    rw [psw_eq, read_putBit_ne hne, ← psw_eq, ih]
  | @flags u w hw _ ih =>
    rw [psw_writeFlags, Option.map_map, ← ih, ← hf w hw]
    exact congrArg (Option.map · (psw u)) (funext w.byte_outside_mask)
  | pc _ _ ih => exact ih

end

/-! ## The updates of one instruction -/

/-- The flag writes an instruction may perform (R211). -/
def FlagsOf (i : Instr) (w : FlagWrite) : Prop := writesFlags i = true ∧ w.mask = flagMask i

/-- `t` is reached from `s` by updates at the result cells and flags of the instruction. -/
abbrev Effect (i : Instr) (s t : State) : Prop := Updates ref (· ∈ resultCells i s) (FlagsOf i) s t

/-- The run of a form: its handler's updates, then a write of PCCELL (R193). -/
theorem runForm_updates {cells : Nat → Prop} {flags : FlagWrite → Prop} {iid : Iid} {len : Nat}
    {f : Ctx → State → Handled} {s t : State} (h : runForm iid len f s = .next t)
    (hf : ∀ va, s.pc = some va → Yields (fun r => Updates ref cells flags s r.1) (f ⟨va, len, refSegTag iid.num⟩ s)) :
    Updates ref cells flags s t := by
  cases hpc : s.pc with
  | none => rw [runForm_none hpc] at h; cases h
  | some va =>
    rw [runForm_some hpc] at h
    have hr := hf va hpc
    generalize f ⟨va, len, refSegTag iid.num⟩ s = r at h hr
    match r, h with
    | .ok (u, .next), rfl => exact (hr _ rfl).pc _
    | .ok (u, .goto q), rfl => exact (hr _ rfl).pc q

/-! ## The operations of a handler, at the cells and flags of an instruction -/

section
variable {cells : Nat → Prop} {flags : FlagWrite → Prop} {s u : State} {x : Ctx}

theorem Updates.data {p : Nat} (v : Cell) (hp : cells p) (hu : Updates ref cells flags s u) :
    Updates ref cells flags s (putData p v u) := by
  rw [← putCell_ref]
  exact hu.cell v hp

theorem setOp_loc_updates (hx : x.idata) (hu : Updates ref cells flags s u) {l : ByteLoc}
    (hl : ∀ p, l.offset u = some p → cells p) (pos : Nat) (v : Val) :
    Yields (Updates ref cells flags s) (setOp ref x pos l.operand v u) := by
  rw [setOp_loc hx]
  cases h : l.offset u with
  | none => exact .error _
  | some p => exact .ok (hu.data _ (hl p h))

theorem setOp_acc_updates (hu : Updates ref cells flags s u) (ha : cells 0xE0) (pos : Nat) (v : Val) :
    Yields (Updates ref cells flags s) (setOp ref x pos (.reg 8) v u) := by
  rw [setOp, regSet_acc]
  exact .ok (hu.data _ ha)

theorem setOp_dptr_updates (hu : Updates ref cells flags s u) (hh : cells 0x83) (hl : cells 0x82) (pos : Nat) (v : Val) :
    Yields (Updates ref cells flags s) (setOp ref x pos (.reg 11) v u) := by
  rw [setOp, regSet_dptr]
  exact .ok ((hu.data _ hh).data _ hl)

theorem setAt_xdata_updates (hx : x.seg = .xdata) (hu : Updates ref cells flags s u) {a : Option Word}
    (ha : ∀ p, a.bind xdataOffset = some p → cells p) (pos : Nat) (kind : AccessKind) (v : Val) :
    Yields (Updates ref cells flags s) (setAt ref x pos kind a v u) := by
  rw [setAt_xdata hx]
  cases a with
  | none => exact .error _
  | some a =>
    dsimp only
    cases h : xdataOffset a with
    | none => exact .error _
    | some p => exact .ok (hu.data _ (ha p h))

theorem setOp_bit_updates (hx : x.idata) (hu : Updates ref cells flags s u) {b : Byte} (hb : cells (bitAddr b))
    (pos : Nat) (v : Val) :
    Yields (Updates ref cells flags s) (setOp ref x pos (Operand.ofBitaddr b false) v u) := by
  rw [setOp_bit hx]
  exact .ok (hu.bit _ _ hb)

theorem setFlags_updates (hu : Updates ref cells flags s u) {w : FlagWrite} (hw : flags w) :
    Yields (Updates ref cells flags s) (setFlags ref w u) := by
  rw [setFlags_ref]
  exact .ok (hu.flags hw)

/-- The carry is rewritten together with the parity of A (R205). -/
theorem writeCarry_updates (hu : Updates ref cells flags s u) (hw : ∀ w, w.mask = 0x81 → flags w) (c : Option Bool) :
    Yields (Updates ref cells flags s) (writeCarry ref c u) := by
  rw [writeCarry_ref]
  exact .ok (hu.flags (hw _ (by simp [FlagWrite.mask])))

theorem storeResult_updates (hx : x.idata) (hu : Updates ref cells flags s u) {l : ByteLoc}
    (hl : ∀ p, l.offset u = some p → cells p) {r : Val × FlagWrite} (hr : flags r.2) :
    Yields (fun r => Updates ref cells flags s r.1) (storeResult ref x l.operand r u) :=
  .bind (setOp_loc_updates hx hu hl 0 r.1) fun _ ht => .fall (setFlags_updates ht hr)

/-- A push writes the stack pointer and the cell above it (R212). -/
theorem push_updates (hu : Updates ref cells flags s u) (hsp : cells 0x81)
    (hc : ∀ p, stackPtr u = some p → cells (p + 1).toNat) (v : Cell) :
    Yields (Updates ref cells flags s) (push ref v u) := by
  rw [push_ref]
  cases h : stackPtr u with
  | none => exact .error _
  | some p => exact .ok ((hu.data _ hsp).data _ (hc p h))

/-- A pop writes the stack pointer only (R213). -/
theorem popped_updates (hu : Updates ref cells flags s u) (hsp : cells 0x81) :
    Updates ref cells flags s (popped u).2 := by
  unfold popped
  split
  · exact hu
  · exact hu.data _ hsp

theorem pop_updates (hu : Updates ref cells flags s u) (hsp : cells 0x81) :
    Yields (fun r => Updates ref cells flags s r.2) (pop ref u) := by
  rw [pop_ref]
  exact .ok (popped_updates hu hsp)

end

/-! ## The instructions, by family -/

section
variable {i : Instr} {s t : State}

/-- The byte destination of an instruction is one of its result cells. -/
theorem resultCells_of_destForm {l : ByteLoc} {pos p : Nat} (hd : destForm i = some (l, pos))
    (hp : l.offset s = some p) : p ∈ resultCells i s := by simp [resultCells, hd, hp]

theorem movForm_effect {l : ByteLoc} {c : ByteSrc} (hm : movForm i = some (l, c)) (h : exec i s = .next t) :
    Effect i s t := by
  rw [exec_movForm hm] at h
  have hd : destForm i = some (l, 0) := by simp [destForm, hm]
  exact runForm_updates h fun _ _ => .read fun _ => .fall
    (setOp_loc_updates rfl .refl (fun _ => resultCells_of_destForm hd) 0 _)

theorem destForm_of_xchForm {l : ByteLoc} (hx : xchForm i = some l) : destForm i = some (l, 1) := by
  cases i <;> first
    | (simp only [xchForm, Option.some.injEq] at hx; subst hx; rfl)
    | (simp [xchForm] at hx)

/-- XCH writes A first; its other location does not move by that (R250). -/
theorem xchForm_effect {l : ByteLoc} (hx : xchForm i = some l) (h : exec i s = .next t) : Effect i s t := by
  rw [exec_xchForm hx] at h
  have hd := destForm_of_xchForm hx
  have hacc : 0xE0 ∈ resultCells i s := by simp [resultCells, hd, hx]
  refine runForm_updates h fun va _ => ?_
  rw [handleXch_ref rfl]
  cases hl : l.offset s with
  | none => exact .error _
  | some p => exact .ok ((Updates.refl.data _ hacc).data _ (resultCells_of_destForm hd hl))

theorem destForm_of_logicForm {op : LogicOp} {l : ByteLoc} {c : ByteSrc} (hm : logicForm i = some (op, l, c)) :
    destForm i = some (l, 0) ∧ flagMask i = 0x01 := by
  cases i <;> first
    | (simp only [logicForm, Option.some.injEq, Prod.mk.injEq] at hm; obtain ⟨-, rfl, -⟩ := hm; exact ⟨rfl, rfl⟩)
    | (simp [logicForm] at hm)

theorem destForm_of_stepForm {l : ByteLoc} {k : Byte} (hm : stepForm i = some (l, k)) : destForm i = some (l, 0) := by
  cases i <;> first
    | (simp only [stepForm, Option.some.injEq, Prod.mk.injEq] at hm; obtain ⟨rfl, -⟩ := hm; rfl)
    | (simp [stepForm] at hm)

theorem destForm_of_djnzForm {l : ByteLoc} {d : Int} (hm : djnzForm i = some (l, d)) : destForm i = some (l, 0) := by
  cases i <;> first
    | (simp only [djnzForm, Option.some.injEq, Prod.mk.injEq] at hm; obtain ⟨rfl, -⟩ := hm; rfl)
    | (simp [djnzForm] at hm)

/-- ADD and SUB write all four flags, with values or with `UNDEF` (R207). -/
theorem arith_mask (f : (w : Nat) → BitVec w → BitVec w → Bool → AluOut w) (a b : Val) (c : Option Bool) :
    (arith f a b c).2.mask = 0xC5 := by
  unfold arith
  split
  · simp [AluOut.flags, FlagWrite.mask]
  · rfl

/-- AND, OR and XOR write P (R203, R207). -/
theorem logic_mask (f : (w : Nat) → BitVec w → BitVec w → BitVec w) (a b : Val) : (logic f a b).2.mask = 0x01 := by
  unfold logic
  split
  · simp [FlagWrite.mask]
  · rfl

theorem flagsOf_intro {w : FlagWrite} {m : Byte} (hi : flagMask i = m) (hm : m ≠ 0) (hw : w.mask = m) : FlagsOf i w := by
  subst hi
  exact ⟨by simpa [writesFlags] using hm, hw⟩

theorem resultCells_of_arithForm {op : ArithOp} {c : ByteSrc} (hm : arithForm i = some (op, c)) (s : State) :
    resultCells i s = [0xE0] := by
  cases i <;> first
    | rfl
    | (simp [arithForm] at hm)

theorem flagMask_of_cjneForm {l : ByteLoc} {c : ByteSrc} {d : Int} (hm : cjneForm i = some (l, c, d)) :
    flagMask i = 0x81 := by
  cases i <;> first
    | rfl
    | (simp [cjneForm] at hm)

theorem arithForm_effect {op : ArithOp} {c : ByteSrc} (hm : arithForm i = some (op, c)) (h : exec i s = .next t) :
    Effect i s t := by
  rw [exec_arithForm hm] at h
  have hi : flagMask i = 0xC5 := by simp [flagMask, hm]
  have hstore : ∀ (x : Ctx) (f : (w : Nat) → BitVec w → BitVec w → Bool → AluOut w) (a b : Val) (cin : Option Bool),
      x.idata → Yields (fun r => Effect i s r.1) (storeResult ref x (.reg 8) (arith f a b cin) s) := fun x f a b cin hx =>
    storeResult_updates (l := .acc) hx .refl (by simp [ByteLoc.offset, resultCells_of_arithForm hm])
      (flagsOf_intro hi (by decide) (arith_mask f a b cin))
  cases op with
  | add => exact runForm_updates h fun va _ => .read fun a => .read fun b => hstore _ aluAdd a b _ rfl
  | addc => exact runForm_updates h fun va _ => .read fun a => .read fun b => .read fun cin => hstore _ aluAdd a b cin rfl
  | subb => exact runForm_updates h fun va _ => .read fun a => .read fun b => .read fun cin => hstore _ aluSub a b cin rfl

theorem logicForm_effect {op : LogicOp} {l : ByteLoc} {c : ByteSrc} (hm : logicForm i = some (op, l, c))
    (h : exec i s = .next t) : Effect i s t := by
  rw [exec_logicForm hm] at h
  obtain ⟨hd, hi⟩ := destForm_of_logicForm hm
  have hstore : ∀ (x : Ctx) (f : (w : Nat) → BitVec w → BitVec w → BitVec w) (a b : Val), x.idata →
      Yields (fun r => Effect i s r.1) (storeResult ref x l.operand (logic f a b) s) := fun x f a b hx =>
    storeResult_updates hx .refl (fun _ => resultCells_of_destForm hd) (flagsOf_intro hi (by decide) (logic_mask f a b))
  cases op with
  | anl | orl | xrl => exact runForm_updates h fun va _ => .read fun a => .read fun b => hstore _ _ a b rfl

theorem stepForm_effect {l : ByteLoc} {k : Byte} (hm : stepForm i = some (l, k)) (h : exec i s = .next t) :
    Effect i s t := by
  have hset : ∀ (x : Ctx) (v : Val), x.idata → Yields (Effect i s) (setOp ref x 0 l.operand v s) := fun x v hx =>
    setOp_loc_updates hx .refl (fun _ => resultCells_of_destForm (destForm_of_stepForm hm)) 0 v
  rcases exec_stepForm hm s with ⟨-, he⟩ | ⟨-, he⟩ <;> rw [he] at h
  · exact runForm_updates h fun va _ => .read fun v => .fall (hset _ _ rfl)
  · exact runForm_updates h fun va _ => .read fun v => .fall (hset _ _ rfl)

theorem djnzForm_effect {l : ByteLoc} {d : Int} (hm : djnzForm i = some (l, d)) (h : exec i s = .next t) :
    Effect i s t := by
  rw [exec_djnzForm hm] at h
  exact runForm_updates h fun va _ => .read fun v => .bind
    (setOp_loc_updates rfl .refl (fun _ => resultCells_of_destForm (destForm_of_djnzForm hm)) 0 _)
    fun _ ht => branch_yields ht _ _ _

theorem writeCarry_effect (hi : flagMask i = 0x81) (s : State) (c : Option Bool) :
    Yields (Effect i s) (writeCarry ref c s) :=
  writeCarry_updates .refl (fun _ => flagsOf_intro hi (by decide)) c

theorem cjneForm_effect {l : ByteLoc} {c : ByteSrc} {d : Int} (hm : cjneForm i = some (l, c, d))
    (h : exec i s = .next t) : Effect i s t := by
  rw [exec_cjneForm hm] at h
  exact runForm_updates h fun va _ => .read fun a => .read fun b => .bind
    (writeCarry_effect (flagMask_of_cjneForm hm) s _) fun _ ht => branch_yields ht _ _ _

end

/-! ## The other instructions -/

section
variable {s t : State}

/-- MOVX through DPTR stores where `xdataOffset` puts the address (R67, R239). -/
theorem movxDptrA_effect (h : exec .movxDptrA s = .next t) : Effect .movxDptrA s t := by
  refine runForm_updates h fun va _ => .read fun v => .fall ?_
  rw [setOp, pointer_dptr]
  exact setAt_xdata_updates rfl .refl (fun p hp => Option.mem_toList.2 hp) 0 .indirect v

/-- MOVX through a working register (R67, R240). -/
theorem movxIndA_effect {j : Fin 2} (h : exec (.movxIndA j) s = .next t) : Effect (.movxIndA j) s t := by
  refine runForm_updates h fun va _ => .read fun v => .fall ?_
  rw [setOp, pointer_rn j.val (by omega)]
  exact setAt_xdata_updates rfl .refl (fun p hp => Option.mem_toList.2 (by rwa [Option.bind_map] at hp)) 0 .indirect v

theorem push_effect {a : Byte} (h : exec (.push a) s = .next t) : Effect (.push a) s t := by
  refine runForm_updates h fun va _ => .read fun v => .fall ?_
  have hcells : ∀ p, stackPtr s = some p → (p + 1).toNat ∈ resultCells (.push a) s := fun p hp => by
    have : resultCells (.push a) s = 0x81 :: ((stackPtr s).map fun p => (p + 1).toNat).toList := rfl
    simp [this, hp]
  exact push_updates .refl (List.mem_cons_self ..) hcells _

theorem pop_effect {a : Byte} (h : exec (.pop a) s = .next t) : Effect (.pop a) s t := by
  have hcells : resultCells (.pop a) s = [0x81, a.toNat] := rfl
  have hsp : 0x81 ∈ resultCells (.pop a) s := List.mem_cons_self ..
  refine runForm_updates h fun va _ => .bind (P := fun r => Effect (.pop a) s r.2)
    (pop_updates .refl hsp) fun r hr => .fall ?_
  exact setOp_loc_updates (l := .dir a) rfl hr (by simp [ByteLoc.offset, hcells]) 0 _

/-- The second push of LCALL uses the stack pointer the first left (R214). -/
theorem lcall_effect {w : Word} (h : exec (.lcall w) s = .next t) : Effect (.lcall w) s t := by
  refine runForm_updates h fun va hpc => .read fun v => ?_
  rw [pushReturn_ref]
  cases hp : stackPtr s with
  | none => rw [push_ref, hp]; exact .error _
  | some p =>
    let low : Cell := some ((nextPc (.lcall w) va).extractLsb' 0 8)
    have hcells : resultCells (.lcall w) s =
        [0x81, (p + 1).toNat] ++ ((stackPtr (pushed p low s)).map fun q => (q + 1).toNat).toList := by
      change (s.pc.map fun va => callCells (nextPc (.lcall w) va) s).getD [] = _
      simp only [hpc, callCells, hp, Option.map_some, Option.getD_some, low]
    have hfirst : Effect (.lcall w) s (pushed p low s) :=
      (Updates.refl.data _ (by simp [hcells])).data _ (by simp [hcells])
    refine .bind (P := Effect (.lcall w) s) ?_ fun u hu => .ok (a := (u, Flow.goto (valWord v))) hu
    rw [push_ref, hp]
    exact push_updates hfirst (by simp [hcells]) (fun q hq => by simp [hcells, hq]) _

theorem ret_effect (h : exec .ret s = .next t) : Effect .ret s t := by
  have hsp : 0x81 ∈ resultCells .ret s := List.mem_cons_self ..
  exact runForm_updates h fun va _ => .bind (popReturn_yields (P := Effect .ret s) (fun _ hu => pop_updates hu hsp) .refl)
    fun r hr => .ok hr

/-- A write of one bit of the addressed byte (R71). -/
theorem setOp_bit_effect {i : Instr} {b : Byte} (hi : resultCells i s = [bitAddr b]) {x : Ctx} (hx : x.idata) (v : Val) :
    Yields (Effect i s) (setOp ref x 0 (Operand.ofBitaddr b false) v s) :=
  setOp_bit_updates hx .refl (by simp [hi]) 0 v

theorem setOp_acc_effect {i : Instr} (hi : resultCells i s = [0xE0]) {x : Ctx} (v : Val) :
    Yields (Effect i s) (setOp ref x 0 (.reg 8) v s) := setOp_acc_updates .refl (by simp [hi]) 0 v

theorem setOp_dptr_effect {i : Instr} (hi : resultCells i s = [0x82, 0x83]) {x : Ctx} (v : Val) :
    Yields (Effect i s) (setOp ref x 0 (.reg 11) v s) :=
  setOp_dptr_updates .refl (by simp [hi]) (by simp [hi]) 0 v

/-- CLR A and CPL A store A and write P (R307, R309). -/
theorem storeAcc_effect {i : Instr} (hi : resultCells i s = [0xE0]) (hm : flagMask i = 0x01) {x : Ctx} (hx : x.idata)
    (v : Val) (p : Option Bool) :
    Yields (fun r => Effect i s r.1) (storeResult ref x (.reg 8) (v, { p := some p }) s) :=
  storeResult_updates (l := .acc) hx .refl (by simp [ByteLoc.offset, hi])
    (flagsOf_intro hm (by decide) (by simp [FlagWrite.mask]))

/-- An instruction that completes changes the state by updates at its result cells and flags only (R80, R211). -/
theorem exec_effect {i : Instr} (h : exec i s = .next t) : Effect i s t := by
  cases i with
  | movAImm | movADir | movAInd | movARn | movRnA | movRnImm | movRnDir | movDirA | movDirImm | movDirRn | movDirInd
  | movIndA | movIndImm | movIndDir => exact movForm_effect rfl h
  | movDptrImm => exact runForm_updates h fun _ _ => .read fun v => .fall (setOp_dptr_effect rfl v)
  | movxADptr | movxAInd | movcADptr | movcAPc =>
    exact runForm_updates h fun _ _ => .read fun v => .fall (setOp_acc_effect rfl v)
  | movxDptrA => exact movxDptrA_effect h
  | movxIndA => exact movxIndA_effect h
  | push => exact push_effect h
  | pop => exact pop_effect h
  | xchADir | xchAInd | xchARn => exact xchForm_effect rfl h
  | addAImm | addADir | addAInd | addARn | addcAImm | addcADir | addcAInd | addcARn | subbAImm | subbADir | subbAInd
  | subbARn => exact arithForm_effect rfl h
  | incA | incDir | incInd | incRn | decA | decDir | decInd | decRn => exact stepForm_effect rfl h
  | incDptr => exact runForm_updates h fun _ _ => .read fun v => .fall (setOp_dptr_effect rfl _)
  | anlAImm | anlADir | anlAInd | anlARn | anlDirA | anlDirImm | orlAImm | orlADir | orlAInd | orlARn | orlDirA
  | orlDirImm | xrlAImm | xrlADir | xrlAInd | xrlARn | xrlDirA | xrlDirImm => exact logicForm_effect rfl h
  | clrA => exact runForm_updates h fun _ _ => storeAcc_effect rfl rfl rfl _ _
  | cplA => exact runForm_updates h fun _ _ => .read fun v => storeAcc_effect rfl rfl rfl _ _
  | clrC | setbC => exact runForm_updates h fun _ _ => .fall (writeCarry_effect rfl s _)
  | cplC => exact runForm_updates h fun _ _ => .read fun c => .fall (writeCarry_effect rfl s _)
  | movCBit => exact runForm_updates h fun _ _ => .read fun b => .fall (writeCarry_effect rfl s _)
  | anlCBit | anlCNbit | orlCBit | orlCNbit =>
    exact runForm_updates h fun _ _ => .read fun c => .read fun b => .fall (writeCarry_effect rfl s _)
  | clrBit | setbBit => exact runForm_updates h fun _ _ => .fall (setOp_bit_effect rfl rfl _)
  | cplBit | movBitC => exact runForm_updates h fun _ _ => .read fun v => .fall (setOp_bit_effect rfl rfl _)
  | nop => exact runForm_updates h fun _ _ => .ok .refl
  | ljmp | sjmp => exact runForm_updates h fun _ _ => jumpTo_yields .refl _ _
  | jmpADptr => exact runForm_updates h fun _ _ => .read fun q => .ok (a := (s, Flow.goto q)) .refl
  | lcall => exact lcall_effect h
  | ret => exact ret_effect h
  | jc | jnc | jz | jnz | jb | jnb => exact runForm_updates h fun _ _ => .read fun v => branch_yields .refl _ _ _
  | cjneAImm | cjneADir | cjneIndImm | cjneRnImm => exact cjneForm_effect rfl h
  | djnzDir | djnzRn => exact djnzForm_effect rfl h

end

/-- Settles O17: the instruction is a chain of updates away from the status byte but for its flag writes. -/
theorem flagFrame : Obligations.FlagFrame := by
  unfold Obligations.FlagFrame
  intro i s t h hres
  have he : Effect i s t := exec_effect h
  have hpsw := he.psw_outside_mask hres fun w hw => hw.2
  refine ⟨fun hw => he.uflags_eq hres fun w hf => ?_, fun hs => ?_, fun b hs => ?_⟩
  · exact Bool.false_ne_true (hw ▸ hf.1)
  · rw [hs] at hpsw
    exact Option.map_eq_none_iff.1 hpsw
  · rw [hs] at hpsw
    exact Option.map_eq_some_iff.1 hpsw

end Sys2Proof.Machine
end

section
/-! PROOFS. Construction and reset of REF, the registers and the status byte as views of STORE (R27, R38, R40), and the
hook modes (R177). -/

namespace Sys2Proof.Machine

/-! ## Construction and reset -/

theorem romDefect_ref : romDefect ref.cfg 3 1 none ref.cfg.rom = none := by decide

theorem roleDefect_ref : ref.roleDefect = none := by decide

theorem segmentDefect_ref : segmentDefect ref.cfg.segments = none := by decide

/-- Settles O6: registers, roles, segments and the decode table have no defect. -/
theorem referenceIsWellFormed : Obligations.ReferenceIsWellFormed := by
  have h : ref.defect = none := by
    unfold Block.defect
    rw [List.find?_eq_none.2 ?registers, roleDefect_ref, segmentDefect_ref, romDefect_ref]
    case registers => decide
    rfl
  exact ⟨h, by rw [construct, h]⟩

/-- An offset no entry lists reads `UNDEF`. -/
theorem Memory.read_eq_none {m : Memory} {p : Nat} (h : p ∉ m.map Prod.fst) : m.read p = none := by
  induction m with
  | nil => rfl
  | cons x m ih =>
    simp only [List.map_cons, List.mem_cons, not_or] at h
    obtain ⟨hx, hm⟩ := h
    rw [Memory.read, if_neg (Ne.symm hx), ih hm]

/-- Settles O14: the reset transaction computed, and every offset it does not list. -/
theorem resetState : Obligations.ResetState := by
  unfold Obligations.ResetState
  refine ⟨by decide, rfl, rfl, rfl, rfl, rfl, rfl, rfl, fun p hp => Memory.read_eq_none fun hlisted => hp ?_⟩
  simp only [State.reset, List.map_cons, List.map_nil, List.mem_cons, List.not_mem_nil, or_false] at hlisted ⊢
  omega

/-! ## Accesses of the data bytes by segment name -/

theorem locate_iram {a : Nat} (h : a < 0x100) : locate ref .iram a = .ok a := by
  simp only [locate, resolve_iram]
  rw [if_pos (by omega), Nat.add_zero]

theorem locate_sfr {a : Nat} (hlow : 0x80 ≤ a) (h : a < 0x100) : locate ref .sfr a = .ok a := by
  simp only [locate, resolve_sfr]
  rw [if_pos (by omega), Nat.add_zero]

section
variable {n : SegName} {a p : Nat}

theorem memRead_ref (h : locate ref n a = .ok p) (s : State) : memRead ref n a s = .ok (dataCell p s) := by
  simp [memRead, h]

theorem memWrite_ref (h : locate ref n a = .ok p) (v : Cell) (s : State) : memWrite ref n a v s = .ok (putData p v s) := by
  simp [memWrite, h]

end

theorem regSet_psw (v : Val) (s : State) : regSet ref 9 v s = .ok (putData 0xD0 (valCell v) s) :=
  regSetDefault_byte 9 0xD0 "PSW" false (some 0x00) v s (by simp)

/-! ## Registers and the cells behind them -/

/-- A register that reads and writes the data cell at `p` and the memory there are one thing (R27, R186). -/
theorem register_is_cell {n : SegName} {a p idx : Nat} {s : State} (v : Byte) (hn : locate ref n a = .ok p)
    (hget : regGet ref idx (putData p (some v) s) = .ok (Val.ofCell (dataCell p (putData p (some v) s))))
    (hset : regSet ref idx (.byte v) s = .ok (putData p (some v) s)) :
    ∃ t u, memWrite ref n a (some v) s = .ok t ∧ regGet ref idx t = .ok (.byte v) ∧
      regSet ref idx (.byte v) s = .ok u ∧ memRead ref n a u = .ok (some v) := by
  have hcell := dataCell_putData_same p v s
  refine ⟨_, _, memWrite_ref hn _ s, ?_, hset, ?_⟩
  · rw [hget, hcell]; rfl
  · rw [memRead_ref hn, hcell]

theorem regGet_acc_dataCell (s : State) : regGet ref 8 s = .ok (Val.ofCell (dataCell 0xE0 s)) := by
  rw [regGet_acc, dataCell_ne _ _ (by decide), acc]

theorem regGet_sp_dataCell (s : State) : regGet ref 10 s = .ok (Val.ofCell (dataCell 0x81 s)) := by
  rw [regGet_sp, dataCell_ne _ _ (by decide), stackPtr]

/-- Settles O24: each register reads and writes one data cell, R3 the one its bank selects. -/
theorem registerAliases : Obligations.RegisterAliases := by
  unfold Obligations.RegisterAliases
  intro v s
  refine ⟨fun hbank => ?_, ?_, ?_, ?_⟩
  · have haddr : ∀ u, psw u = psw s → rnAddr 3 u = some 0x0B := fun u hu => by rw [rnAddr, hu, hbank]; rfl
    refine register_is_cell v (locate_iram (by decide)) ?_ ?_
    · have hput := haddr (putData 0x0B (some v) s) (psw_putData_ne _ _ _ (by decide))
      rw [regGet_rn 3 (by decide), ← rnCell_dataCell (by decide), hput, Option.bind_some]
    · rw [regSet_rn 3 (by decide), haddr s rfl]; rfl
  · exact register_is_cell v (locate_sfr (by decide) (by decide)) (regGet_acc_dataCell _) (regSet_acc _ s)
  · exact register_is_cell v (locate_sfr (by decide) (by decide)) (regGet_sp_dataCell _) (regSet_sp _ s)
  · exact register_is_cell v (locate_sfr (by decide) (by decide)) (regGet_psw _) (regSet_psw _ s)

/-- Settles O26, from the built-in hooks of PC. -/
theorem programCounterRegister : Obligations.ProgramCounterRegister :=
  fun v s => ⟨regGet_pc s, regSet_pc v s⟩

/-! ## The status byte -/

theorem dataCell_status (s : State) : dataCell 0xD0 s = if s.uflags = true then none else psw s := by
  simp [dataCell, psw]

/-- A bit read of the status byte: the overlay covers the four flag bits only (R38, R71). -/
theorem readBit_status (b : Nat) (s : State) : readBit ref 0xD0 b s =
    if s.uflags = true ∧ b ∈ [7, 6, 2, 0] then none else (psw s).map (·.getLsbD b) := by
  have hbits : flagBits ref.cfg = [7, 6, 2, 0] := rfl
  rw [readBit, psw, hbits, isStatus_ref]
  cases s.store.read 0xD0 with
  | none => simp
  | some x => simp

/-- Settles O27: every reader of the status byte goes through `dataCell`, `readBit` or the stored byte. -/
theorem statusReads : Obligations.StatusReads := by
  unfold Obligations.StatusReads
  have hiram := locate_iram (a := 0xD0) (by decide)
  have hsfr := locate_sfr (a := 0xD0) (by decide) (by decide)
  refine ⟨fun f s => ?_, fun s => ⟨?_, ?_, ?_, fun hsp => ?_⟩, fun b s => ?_, fun n s => bankedAddress_ref n s⟩
  · rw [flag_ref]; cases f <;> rfl
  · rw [memRead_ref hiram, dataCell_status]
  · rw [memRead_ref hsfr, dataCell_status]
  · rw [regGet_psw, dataCell_status]
  · rw [pop_ref, ← dataCell_status]
    simp only [popped, hsp]; rfl
  · rw [← readBit_status]
    simp [memReadBit, hsfr]

/-- A byte write of the status byte: a defined value clears UFLAGS, `UNDEF` leaves it (R40). -/
theorem putData_status (s : State) :
    (∀ v : Byte, psw (putData 0xD0 (some v) s) = some v ∧ (putData 0xD0 (some v) s).uflags = false) ∧
      psw (putData 0xD0 none s) = none ∧ (putData 0xD0 none s).uflags = s.uflags := by
  simp [psw]

/-- A bit write of the status byte replaces that bit of a defined byte (R40, R71). -/
theorem psw_putBit (b : Nat) (x : Bool) (s : State) : psw (putBit 0xD0 b (some x) s) = (psw s).map (setBit · b x) := by
  rw [psw_eq s]
  cases h : s.store.read 0xD0 with
  | none => simp [putBit, h, psw]
  | some y => simp [putBit, h, psw]

/-- Settles O29: the three kinds of write, each by what it leaves in the status byte and UFLAGS. -/
theorem statusWrites : Obligations.StatusWrites := by
  unfold Obligations.StatusWrites
  intro v s
  obtain ⟨hsome, hnone, hkeep⟩ := putData_status s
  obtain ⟨hstored, hclear⟩ := hsome v
  have hiram := locate_iram (a := 0xD0) (by decide)
  have hsfr := locate_sfr (a := 0xD0) (by decide) (by decide)
  refine ⟨fun n hn => ?_, ?_, fun b x _ => ⟨_, ?_, putBit_uflags 0xD0 b (some x) s, psw_putBit b x s⟩⟩
  · have hloc : locate ref n 0xD0 = .ok 0xD0 := by
      simp only [List.mem_cons, List.not_mem_nil, or_false] at hn
      rcases hn with rfl | rfl
      · exact hiram
      · exact hsfr
    exact ⟨_, _, memWrite_ref hloc _ s, hstored, hclear, memWrite_ref hloc _ s, hnone, hkeep⟩
  · exact ⟨_, _, regSet_psw _ s, hstored, hclear, regSet_psw _ s, hnone, hkeep⟩
  · simp [memWriteBit, hsfr]

/-! ## Register hooks -/

section
variable {k : Block} {idx : Nat} {d : RegDesc}

/-- A register write with a well-formed descriptor, by hook mode and write hook (R177). -/
theorem regSet_wellFormed (hd : k.cfg.registers[idx]? = some d) (hw : d.WellFormed = true) (v : Val) (s : State) :
    regSet k idx v s =
      if k.hookMode idx = .replace ∧ (k.writeHook idx).isSome = true then .ok s else regSetDefault k idx d v s := by
  simp only [regSet, hd, hw, if_true]
  cases k.hookMode idx with
  | none => simp
  | replace => cases k.writeHook idx <;> simp
  | also =>
    cases k.writeHook idx with
    | none => simp
    | some hook => cases regSetDefault k idx d v s <;> simp

theorem regGet_hook {hook : State → Val} (hd : k.cfg.registers[idx]? = some d) (hw : d.WellFormed = true)
    (hm : k.hookMode idx = .replace) (hh : k.readHook idx = some hook) (s : State) :
    regGet k idx s = .ok (fitWidth d.widthBytes (hook s)) := by simp [regGet, hd, hw, hm, hh]

theorem regGet_default (hd : k.cfg.registers[idx]? = some d) (hw : d.WellFormed = true)
    (h : k.hookMode idx ≠ .replace ∨ k.readHook idx = none) (s : State) :
    regGet k idx s = regGetDefault k idx d s := by
  simp only [regGet, hd, hw, if_true]
  cases hm : k.hookMode idx with
  | none | also => rfl
  | replace => rw [h.resolve_left (not_not_intro hm)]

end

/-- Settles O32: reads and writes by hook mode. -/
theorem registerHooks : Obligations.RegisterHooks := by
  unfold Obligations.RegisterHooks
  intro k idx d v s hd hw
  have hset := regSet_wellFormed hd hw v s
  refine ⟨fun hook hm hh => regGet_hook hd hw hm hh s, fun hook hm hh => ?_, fun h => regGet_default hd hw h s,
    fun h => ?_⟩
  · rw [hset, if_pos ⟨hm, by rw [hh]; rfl⟩]
  · rw [hset, if_neg]
    rintro ⟨hm, hh⟩
    rw [h.resolve_left (not_not_intro hm)] at hh
    cases hh

end Sys2Proof.Machine
end

section
/-! PROOFS. The frame of an instruction (R80, R211), and that no step stores at XRAM 0x0080 or above (R67, R83), for which
every Opcode the REF ROM gives has to be of a form (R110). -/

namespace Sys2Proof.Machine

/-! ## The frame of an instruction -/

/-- A chain of updates leaves every offset that it stores nothing to, the status byte too where it writes no flag. -/
theorem Updates.read_eq {cells : Nat → Prop} {flags : FlagWrite → Prop} {s t : State} {q : Nat} (hc : ¬ cells q)
    (hf : q = 0xD0 → ∀ w, ¬ flags w) (h : Updates ref cells flags s t) : t.store.read q = s.store.read q := by
  induction h with
  | refl => rfl
  | @cell u p v hp _ ih =>
    have hne : p ≠ q := fun e => hc (e ▸ hp)
    rw [putCell_store, Memory.read_write_ne _ _ hne, ih]
  | @bit u p b v hp _ ih =>
    have hne : p ≠ q := fun e => hc (e ▸ hp)
    rw [read_putBit_ne hne, ih]
  | @flags u w hw _ ih =>
    have hne : q ≠ 0xD0 := fun e => hf e w hw
    rw [read_writeFlags_ne w u hne, ih]
  | pc _ _ ih => exact ih

/-- Settles O16: the updates of an instruction are at its result cells and, for a flag write, at the status byte. -/
theorem execFrame : Obligations.ExecFrame := by
  unfold Obligations.ExecFrame
  intro i s t p h hp
  rw [writtenCells, List.mem_append, not_or] at hp
  obtain ⟨hres, hflags⟩ := hp
  refine (exec_effect h).read_eq hres fun hpsw w hw => hflags ?_
  rw [if_pos hw.1, hpsw]
  exact List.mem_singleton_self _

end Sys2Proof.Machine

namespace Sys2Proof

/-! ## Every Opcode of the REF ROM is of a form -/

/-- Two operands of one variant that name the same register: they differ in what their bytes give only (R97, R135). -/
inductive Operand.Alike : Operand → Operand → Prop
  | reg (n : Nat) : Alike (.reg n) (.reg n)
  | imm8 (v w : Byte) : Alike (.imm8 v) (.imm8 w)
  | imm16 (v w : Word) : Alike (.imm16 v) (.imm16 w)
  | dir (a b : Byte) : Alike (.dir a) (.dir b)
  | ind (n : Nat) : Alike (.ind n) (.ind n)
  | bit (a b : Byte) (j k : BitVec 3) (neg : Bool) : Alike (.bit a j neg) (.bit b k neg)
  | rel (d e : Int) : Alike (.rel d) (.rel e)
  | abs (t u : Word) : Alike (.abs t) (.abs u)
  | idx (n : Nat) : Alike (.idx n) (.idx n)

/-- Which form an Opcode is of depends on its iid, its operands' variants and their registers only (R110). -/
theorem ofOperands_alike {i : Instr} {ops : List Operand} (h : List.Forall₂ Operand.Alike i.operands ops) :
    (Instr.ofOperands i.iid ops).isSome = true := by
  cases i with
  | nop | ret | clrC | setbC | cplC => cases h; rfl
  | clrA | cplA | incA | decA | incDptr | jmpADptr | push | pop | incDir | decDir | clrBit | setbBit | cplBit | movCBit
  | movBitC | anlCBit | anlCNbit | orlCBit | orlCNbit | ljmp | lcall | sjmp | jc | jnc | jz | jnz =>
    obtain _ | ⟨⟨⟩, ⟨⟩⟩ := h
    rfl
  | incInd n | incRn n | decInd n | decRn n =>
    obtain _ | ⟨⟨⟩, ⟨⟩⟩ := h
    fin_cases n <;> rfl
  | movAImm | movADir | movDirA | movDirImm | movDptrImm | movxADptr | movxDptrA | movcADptr | movcAPc | xchADir
  | addAImm | addADir | addcAImm | addcADir | subbAImm | subbADir | anlAImm | anlADir | anlDirA | anlDirImm
  | orlAImm | orlADir | orlDirA | orlDirImm | xrlAImm | xrlADir | xrlDirA | xrlDirImm | jb | jnb | djnzDir =>
    obtain _ | ⟨⟨⟩, _ | ⟨⟨⟩, ⟨⟩⟩⟩ := h
    rfl
  | movAInd n | movARn n | movRnA n | movRnImm n | movRnDir n | movDirRn _ n | movDirInd _ n | movIndA n | movIndImm n
  | movIndDir n | movxAInd n | movxIndA n | xchAInd n | xchARn n | addAInd n | addARn n | addcAInd n | addcARn n
  | subbAInd n | subbARn n | anlAInd n | anlARn n | orlAInd n | orlARn n | xrlAInd n | xrlARn n | djnzRn n =>
    obtain _ | ⟨⟨⟩, _ | ⟨⟨⟩, ⟨⟩⟩⟩ := h
    fin_cases n <;> rfl
  | cjneAImm | cjneADir =>
    obtain _ | ⟨⟨⟩, _ | ⟨⟨⟩, _ | ⟨⟨⟩, ⟨⟩⟩⟩⟩ := h
    rfl
  | cjneIndImm n | cjneRnImm n =>
    obtain _ | ⟨⟨⟩, _ | ⟨⟨⟩, _ | ⟨⟨⟩, ⟨⟩⟩⟩⟩ := h
    fin_cases n <;> rfl

/-- One descriptor builds like operands from any bytes (R135). -/
theorem build_alike {c : Cfg} {d : OpDesc} {bs : List Byte} {o o' : Operand}
    (h : d.build c bs = some o) (h' : d.build c (List.replicate bs.length 0) = some o') : o'.Alike o := by
  unfold OpDesc.build at h h'
  generalize d.tag.toNat = tag at h h'
  rcases tag with _ | _ | _ | _ | _ | _ | _ | _ | _ | _ | tag
  all_goals rcases bs with _ | ⟨x, _ | ⟨y, _ | ⟨z, bs⟩⟩⟩
  all_goals cases h
  all_goals cases h'
  all_goals constructor

/-- The operand a descriptor builds from zero bytes (R135). -/
def OpDesc.sample (d : OpDesc) : Option Operand :=
  d.bytes.bind fun k => d.build refCfg (List.replicate k 0)

/-- The form an entry's iid and the operands built from zero bytes make, if REF has it (R110). -/
def RomEntry.sample (e : RomEntry) : Option Instr :=
  match Iid.ofNum e.iid, e.descs.mapM OpDesc.sample with
  | some h, some ops => Instr.ofOperands h ops
  | _, _ => none

/-- An entry's iid is that of a form, and its descriptors build the form's operands from zero bytes (R110). -/
abbrev RomEntry.OfForm (e : RomEntry) (i : Instr) : Prop :=
  Iid.ofNum e.iid = some i.iid ∧ e.descs.mapM OpDesc.sample = some i.operands

/-- Every entry in use of the REF ROM is of a form (R94, R110). -/
theorem refRom_ofForm : ∀ b : Byte, (RomEntry.ofWord (refRom b)).valid = true →
    (RomEntry.ofWord (refRom b)).sample.any ((RomEntry.ofWord (refRom b)).OfForm ·) = true := by decide

theorem readBytes_length {buf : Buffer} {off k cur : Nat} {bs : List Byte} (h : readBytes buf off cur k = .ok bs) :
    bs.length = k := by
  induction k generalizing cur bs with
  | zero => cases h; rfl
  | succ k ih =>
    unfold readBytes at h
    split at h
    · cases h
    · split at h
      · next hbs => cases h; rw [List.length_cons, ih hbs]
      · cases h

/-- What descriptors decode is like what they build from zero bytes (R134, R135). -/
theorem decodeOperands_alike {buf : Buffer} {off cur n : Nat} {bad : DecodeError} {ds : List OpDesc}
    {ops samples : List Operand} (hs : ds.mapM OpDesc.sample = some samples)
    (h : decodeOperands refCfg buf off bad ds cur = .ok (ops, n)) : List.Forall₂ Operand.Alike samples ops := by
  induction ds generalizing cur ops samples with
  | nil => cases hs; cases h; exact .nil
  | cons d ds ih =>
    rw [List.mapM_cons] at hs
    simp only [Option.bind_eq_bind, Option.bind_eq_some_iff] at hs
    obtain ⟨o, ho, os, hos, ⟨⟩⟩ := hs
    obtain ⟨k, hk, ho⟩ := Option.bind_eq_some_iff.1 ho
    simp only [decodeOperands, hk] at h
    split at h
    · cases h
    · split at h
      · cases h
      · next bs hbs =>
        split at h
        · cases h
        · next op hop =>
          split at h
          · cases h
          · next hrest =>
            cases h
            refine .cons (build_alike hop ?_) (ih hos hrest)
            rw [readBytes_length hbs, ho]

/-- REF has no sub-tables: the table walk ends at a main entry in use (R115, R131). -/
theorem walkTables_ref {buf : Buffer} {off fuel k : Nat} {e : RomEntry} {id : Option Nat} {b : Byte}
    (h : walkTables refCfg buf off fuel none refRom 0 = .ok (e, k, id, b)) :
    e = RomEntry.ofWord (refRom b) ∧ e.valid = true := by
  have hsub : ∀ n, refCfg.subtables n = none := fun _ => rfl
  cases fuel with
  | zero => cases h
  | succ fuel =>
    simp only [walkTables, hsub] at h
    split at h
    · cases h
    · split at h
      · cases h
      · split at h
        · next hv =>
          split at h
          · split at h
            · cases h
            · split at h <;> cases h
          · cases h; exact ⟨rfl, hv⟩
        · cases h

/-- Every Opcode the decoder gives in REF is of a form of R110. -/
theorem ofOpcode_of_decodeAt {buf : Buffer} {off : Nat} {va : Word} {opc : Opcode}
    (h : decodeAt refCfg buf off va = .ok opc) :
    (Instr.ofOpcode opc).isSome = true := by
  unfold decodeAt at h
  split at h
  · cases h
  · next e k id b hw =>
    split at h
    · split at h
      · cases h
      · next ops len hops =>
        obtain ⟨rfl, hv⟩ := walkTables_ref hw
        obtain ⟨i, -, hi⟩ := (Option.any_eq_true _ _).1 (refRom_ofForm b hv)
        obtain ⟨hiid, hsamples⟩ := of_decide_eq_true hi
        cases h
        simp only [Instr.ofOpcode, hiid]
        exact ofOperands_alike (decodeOperands_alike hsamples hops)
    · cases h
end Sys2Proof

namespace Sys2Proof.Machine

/-- The Opcode a step of REF executes is of a form (R110, R190). -/
theorem ofOpcode_of_fetch {s : State} {opc : Opcode} (h : fetchOpcode ref s = .ok opc) :
    (Instr.ofOpcode opc).isSome = true := by
  unfold fetchOpcode at h
  split at h
  · cases h
  · split at h
    · cases h
    · simp only [fetchAt, SegTag.segName, resolve_code] at h
      split at h
      · cases h
      · split at h
        · cases h
        · next hdecode => cases h; exact ofOpcode_of_decodeAt hdecode

/-- A step of REF that completes is the execution of an instruction. -/
theorem exec_of_step {s t : State} (h : step s = .next t) : ∃ i, exec i s = .next t := by
  unfold step at h
  split at h
  · cases h
  · next opc hfetch =>
    obtain ⟨i, hi⟩ := Option.isSome_iff_exists.1 (ofOpcode_of_fetch hfetch)
    rw [hi] at h
    exact ⟨i, h⟩

/-! ## How high an instruction stores -/

theorem toNat_lt_highXram (b : Byte) : b.toNat < 0x180 := b.isLt.trans (by decide)

theorem xdataOffset_lt {a : Word} {p : Nat} (h : xdataOffset a = some p) : p < 0x180 := by
  unfold xdataOffset at h
  split at h
  · cases h; omega
  · split at h
    · cases h; omega
    · cases h

theorem callCells_lt {ra : Word} {s : State} {p : Nat} (h : p ∈ callCells ra s) : p < 0x180 := by
  unfold callCells at h
  split at h
  · cases h
  · simp only [List.mem_append, List.mem_cons, List.not_mem_nil, or_false, Option.mem_toList,
      Option.map_eq_some_iff] at h
    rcases h with (rfl | rfl) | ⟨q, -, rfl⟩
    · decide
    · exact toNat_lt_highXram _
    · exact toNat_lt_highXram _

/-- Through pointers and the stack too, a result is stored below XRAM 0x0080 (R67). -/
theorem otherCells_lt {i : Instr} {s : State} {p : Nat} (h : p ∈ otherCells i s) : p < 0x180 := by
  cases i with
  | movDptrImm | incDptr =>
    have hp : p ∈ [0x82, 0x83] := h
    simp only [List.mem_cons, List.not_mem_nil, or_false] at hp
    omega
  | movxADptr | movxAInd | movcADptr | movcAPc | clrA | cplA | addAImm | addADir | addAInd | addARn | addcAImm | addcADir
  | addcAInd | addcARn | subbAImm | subbADir | subbAInd | subbARn =>
    obtain rfl : p = 0xE0 := List.mem_singleton.1 h
    decide
  | movxDptrA =>
    obtain ⟨a, -, ha⟩ := Option.bind_eq_some_iff.1 (Option.mem_toList.1 h)
    exact xdataOffset_lt ha
  | movxIndA =>
    obtain ⟨b, -, hb⟩ := Option.bind_eq_some_iff.1 (Option.mem_toList.1 h)
    exact xdataOffset_lt hb
  | push =>
    rcases List.mem_cons.1 h with rfl | hp
    · decide
    · obtain ⟨q, -, rfl⟩ := Option.map_eq_some_iff.1 (Option.mem_toList.1 hp)
      exact toNat_lt_highXram _
  | pop a =>
    have hp : p ∈ [0x81, a.toNat] := h
    simp only [List.mem_cons, List.not_mem_nil, or_false] at hp
    rcases hp with rfl | rfl
    · decide
    · exact toNat_lt_highXram _
  | lcall t =>
    have hp : p ∈ (s.pc.map fun va => callCells (nextPc (.lcall t) va) s).getD [] := h
    cases hpc : s.pc with
    | none => rw [hpc] at hp; cases hp
    | some va => rw [hpc] at hp; exact callCells_lt hp
  | ret =>
    obtain rfl : p = 0x81 := List.mem_singleton.1 h
    decide
  | clrBit b | setbBit b | cplBit b | movBitC b =>
    obtain rfl : p = bitAddr b := List.mem_singleton.1 h
    exact (bitAddr_lt b).trans (by decide)
  | _ => exact absurd h List.not_mem_nil

/-- The byte destinations are data bytes, the other results lie as low (R67). -/
theorem resultCells_lt {i : Instr} {s : State} {p : Nat} (h : p ∈ resultCells i s) : p < 0x180 := by
  unfold resultCells at h
  split at h
  · next l _ _ =>
    rcases List.mem_append.1 h with hl | hacc
    · exact (ByteLoc.offset_lt (Option.mem_toList.1 hl)).trans (by decide)
    · split at hacc
      · obtain rfl := List.mem_singleton.1 hacc; decide
      · cases hacc
  · exact otherCells_lt h

theorem writtenCells_lt {i : Instr} {s : State} {p : Nat} (h : p ∈ writtenCells i s) : p < 0x180 := by
  rcases List.mem_append.1 h with hres | hpsw
  · exact resultCells_lt hres
  · split at hpsw
    · obtain rfl := List.mem_singleton.1 hpsw; decide
    · cases hpsw

/-- Settles O15: a step is the execution of an instruction, and every cell an instruction writes lies below 0x180. -/
theorem codeAndHighXramNeverWritten : Obligations.CodeAndHighXramNeverWritten := by
  unfold Obligations.CodeAndHighXramNeverWritten
  intro s t p hp h
  obtain ⟨i, hi⟩ := exec_of_step h
  exact execFrame i s t p hi fun hmem => absurd (writtenCells_lt hmem) (by omega)

end Sys2Proof.Machine
end

section
/-! PROOFS. The memory operations: the bit write (R71), where a data access lands (R64 to R67), and the host's load and peek
(R87, R420). -/

namespace Sys2Proof.Machine

/-! ## The bit write -/

/-- A bit write at the cell it writes (R71). -/
theorem read_putBit_same (p b : Nat) (v : Option Bool) (s : State) :
    (putBit p b v s).store.read p = v.bind fun x => (s.store.read p).map (setBit · b x) := by
  cases v with
  | none => exact Memory.read_write_same s.store p none
  | some x =>
    cases h : s.store.read p with
    | none => simp [putBit, h]
    | some y => simp [putBit, h]

/-- Settles O30: the written cell by the value and the old cell, every other cell by the frame. -/
theorem bitAccess : Obligations.BitAccess := by
  unfold Obligations.BitAccess
  intro p b v s hb
  refine ⟨fun hv => ?_, fun hs => ?_, fun x y hv hy => ⟨setBit y b x, ?_, fun j _ => getLsbD_setBit y x hb j⟩,
    putBit_uflags p b v s, putBit_pc p b v s, fun q hq => read_putBit_ne hq.symm b v s⟩
  · rw [read_putBit_same, hv]; rfl
  · rw [read_putBit_same, hs]; cases v <;> rfl
  · rw [read_putBit_same, hv, hy]; rfl

/-! ## Where a data access lands -/

/-- The two values of THRESH_SCOPE differ in the selected segment only. -/
theorem locate_refNarrow (n : SegName) (a : Nat) : locate refNarrow n a = locate ref n a := rfl

/-- An access the threshold does not govern is to the tag's segment (R66). -/
theorem sel_refNarrow_tag {kind : AccessKind} (h : inScope .directBitReg kind = false) (t : SegTag) (a : Nat) :
    sel refNarrow t kind a = t.segName := by
  have hscope : refNarrow.cfg.threshScope = .directBitReg := rfl
  simp [sel, hscope, h]

/-- An access the threshold governs goes where the same access goes in REF (R66). -/
theorem sel_refNarrow_governed {kind : AccessKind} (h : inScope .directBitReg kind = true) (t : SegTag) (a : Nat) :
    sel refNarrow t kind a = sel ref t kind a := by
  have hscope : refNarrow.cfg.threshScope = .directBitReg := rfl
  have hthresh : refNarrow.cfg.sfrThreshold = 0x80 := rfl
  rw [sel_ref]
  simp [sel, hscope, hthresh, h]

theorem locate_xram {a : Nat} (h : a < 0x10000) : locate ref .xram a = .ok (0x100 + a) := by
  simp only [locate, resolve_xram]
  rw [if_pos (by omega), Nat.add_comm]

theorem locate_codeSegment {a : Nat} (h : a < 0x10000) : locate ref .code a = .ok (0x10100 + a) := by
  simp only [locate, resolve_code]
  rw [if_pos (by omega), Nat.add_comm]

theorem locate_iram_fault {a : Nat} (h : 0x100 ≤ a) : locate ref .iram a = .error (.storeFault .iram a) := by
  simp only [locate, resolve_iram]
  rw [if_neg (by omega)]

theorem locate_sfr_fault {a : Nat} (h : 0x100 ≤ a) : locate ref .sfr a = .error (.storeFault .sfr a) := by
  simp only [locate, resolve_sfr]
  rw [if_neg (by omega)]

/-- Below the threshold an access is to its tag's segment, from there on to the SFR segment (R67). -/
theorem locate_sel_ref (kind : AccessKind) (a : Word) :
    (a.toNat < 0x80 → locate ref (sel ref .xdata kind a.toNat) a.toNat = .ok (0x100 + a.toNat) ∧
      locate ref (sel ref .code kind a.toNat) a.toNat = .ok (0x10100 + a.toNat) ∧
      locate ref (sel ref .idata kind a.toNat) a.toNat = .ok a.toNat) ∧
    (0x80 ≤ a.toNat → a.toNat < 0x100 → ∀ t, locate ref (sel ref t kind a.toNat) a.toNat = .ok a.toNat) ∧
    (0x100 ≤ a.toNat → ∀ t, locate ref (sel ref t kind a.toNat) a.toNat = .error (.storeFault .sfr a.toNat)) := by
  have ha := a.isLt
  refine ⟨fun hlow => ?_, fun hsfr htop t => ?_, fun hhigh t => ?_⟩
  · simp only [sel_ref, if_neg (show ¬ 0x80 ≤ a.toNat by omega), SegTag.segName]
    exact ⟨locate_xram ha, locate_codeSegment ha, locate_iram (by omega)⟩
  · rw [sel_ref, if_pos hsfr]
    exact locate_sfr hsfr htop
  · rw [sel_ref, if_pos (by omega)]
    exact locate_sfr_fault hhigh

/-- Settles O31: governed accesses land as in REF, the others in the tag's segment. -/
theorem thresholdScope : Obligations.ThresholdScope := by
  unfold Obligations.ThresholdScope
  intro a
  have ha := a.isLt
  refine ⟨fun k kind hk => ?_, fun kind hkind => ?_⟩
  · rcases hk with rfl | ⟨rfl, hkind⟩
    · exact locate_sel_ref kind a
    · have hscope : inScope .directBitReg kind = true := by revert kind; decide
      simp only [locate_refNarrow, sel_refNarrow_governed hscope]
      exact locate_sel_ref kind a
  · have hscope : inScope .directBitReg kind = false := by revert kind; decide
    simp only [locate_refNarrow, sel_refNarrow_tag hscope, SegTag.segName]
    exact ⟨locate_xram ha, locate_codeSegment ha, fun h => locate_iram h, fun h => locate_iram_fault h⟩

/-! ## Load and peek -/

theorem resolve_unknown {k : Block} {n : SegName} (h : ∀ g ∈ k.cfg.segments, g.name ≠ n) :
    resolve k n = .error (.unknownSegment n) := by
  have hfind : k.cfg.segments.find? (fun s => s.name == n) = none := by
    rw [List.find?_eq_none]
    exact fun g hg => by simpa using h g hg
  rw [resolve, hfind]

theorem load_nil (a : Nat) (s : State) : load ref .code a [] s = .ok s := rfl

/-- A load of one byte more writes that byte last (R87). -/
theorem load_concat (a : Nat) (bytes : List Byte) (b : Byte) (s : State) :
    load ref .code a (bytes ++ [b]) s = load ref .code a bytes s >>= memWrite ref .code (a + bytes.length) (some b) := by
  have hzip : (List.range (bytes ++ [b]).length).zip (bytes ++ [b]) =
      (List.range bytes.length).zip bytes ++ [(bytes.length, b)] := by
    rw [List.length_append, List.length_singleton, List.range_succ, List.zip_append (by simp)]
    rfl
  simp only [load, resolve_code, except_ok_bind, hzip, List.foldlM_append, List.foldlM_cons, List.foldlM_nil,
    bind_pure]

/-- What a load of bytes at a code address leaves: the bytes at their offsets, everything else as before (R87). -/
structure Loaded (a : Nat) (bytes : List Byte) (s t : State) : Prop where
  pc : t.pc = s.pc
  uflags : t.uflags = s.uflags
  cells : ∀ j, j < bytes.length → t.store.read (0x10100 + (a + j)) = bytes[j]?
  others : ∀ p, (p < 0x10100 + a ∨ 0x10100 + a + bytes.length ≤ p) → t.store.read p = s.store.read p

theorem Loaded.nil (a : Nat) (s : State) : Loaded a [] s s := ⟨rfl, rfl, nofun, fun _ _ => rfl⟩

theorem Loaded.concat {a : Nat} {bytes : List Byte} {s t : State} (h : Loaded a bytes s t) (b : Byte) :
    Loaded a (bytes ++ [b]) s (putData (0x10100 + (a + bytes.length)) (some b) t) where
  pc := h.pc
  uflags := by
    have hstatus : 0x10100 + (a + bytes.length) ≠ 0xD0 := by omega
    simp [hstatus, h.uflags]
  cells j hj := by
    rw [List.length_append, List.length_singleton] at hj
    rw [putData_store, Memory.read_write]
    by_cases hlast : j = bytes.length
    · subst hlast; simp
    · rw [if_neg (by omega), h.cells j (by omega), List.getElem?_append_left (by omega)]
  others p hp := by
    rw [List.length_append, List.length_singleton] at hp
    rw [putData_store, Memory.read_write_ne _ _ (by omega), h.others p (by omega)]

theorem load_code {a : Nat} {bytes : List Byte} (s : State) (h : a + bytes.length ≤ 0x10000) :
    ∃ t, load ref .code a bytes s = .ok t ∧ Loaded a bytes s t := by
  induction bytes using List.reverseRecOn with
  | nil => exact ⟨s, load_nil a s, .nil a s⟩
  | append_singleton bytes b ih =>
    rw [List.length_append, List.length_singleton] at h
    obtain ⟨t, hload, ht⟩ := ih (by omega)
    refine ⟨_, ?_, ht.concat b⟩
    rw [load_concat, hload, except_ok_bind, memWrite_ref (locate_codeSegment (by omega))]

theorem peek_ref {n : SegName} {a p : Nat} (h : locate ref n a = .ok p) (s : State) :
    peek ref n a s = .ok (s.store.read p) := by
  rw [peek, h]; rfl

/-- Settles O33: the load by its last byte, the peeks by their offsets, an unknown name by `resolve`. -/
theorem loadThenPeek : Obligations.LoadThenPeek := by
  unfold Obligations.LoadThenPeek
  refine ⟨fun a bytes s h => ?_, fun s => ⟨?_, ?_⟩, fun k n a bytes s hn => ⟨?_, ?_⟩⟩
  · obtain ⟨t, hload, ht⟩ := load_code s h
    refine ⟨t, hload, ht.pc, ht.uflags, fun j hj => ?_, ht.others⟩
    rw [peek_ref (locate_codeSegment (by omega)), ht.cells j hj]
  · exact peek_ref (locate_sfr (by decide) (by decide)) s
  · exact peek_ref (locate_iram (by decide)) s
  · rw [load, resolve_unknown hn, except_error_bind]
  · rw [peek, locate, resolve_unknown hn, except_error_bind]

end Sys2Proof.Machine
end

section
/-! PROOFS. The instructions that reach memory through a pointer or write one bit: MOVX and MOVC (R67, R236, R241), the four
bit writes (R150), and the stop of a write whose address is `UNDEF` (R72, R407). -/

namespace Sys2Proof.Machine

/-! ## Reads of XDATA and CODE -/

section
variable {x : Ctx} {kind : AccessKind} {a : Option Word} {s : State}

/-- Through a pointer that is `UNDEF` or has an offset an XDATA read gives the cell, if any (R67, R72). -/
theorem getAt_xdata_cell (hx : x.seg = .xdata) (ha : ∀ w, a = some w → (xdataOffset w).isSome = true) :
    getAt ref x kind a s = .ok (Val.ofCell (a.bind fun w => (xdataOffset w).bind (dataCell · s))) := by
  rw [getAt_xdata hx]
  cases a with
  | none => rfl
  | some w =>
    obtain ⟨p, hp⟩ := Option.isSome_iff_exists.1 (ha w rfl)
    simp [hp]

/-- The same for a CODE address (R67, R72). -/
theorem getAt_code_cell (hx : x.seg = .code) (ha : ∀ w, a = some w → (codeDataOffset w).isSome = true) :
    getAt ref x kind a s = .ok (Val.ofCell (a.bind fun w => (codeDataOffset w).bind (dataCell · s))) := by
  rw [getAt_code hx]
  cases a with
  | none => rfl
  | some w =>
    obtain ⟨p, hp⟩ := Option.isSome_iff_exists.1 (ha w rfl)
    simp [hp]

end

/-- The address in a working register has an offset (R67). -/
theorem xdataOffset_byte (b : Byte) : (xdataOffset (b.zeroExtend 16)).isSome = true := by
  have hb : (b.zeroExtend 16).toNat < 0x100 := by have := b.isLt; simp; omega
  unfold xdataOffset
  split
  · rfl
  · rfl

/-! ## MOVX and MOVC into A -/

section
variable {s : State} {va : Word}

theorem handleMovx_read {x : Ctx} {op : Operand} {c : Cell} (h : getOp ref x op s = .ok (Val.ofCell c)) :
    handleMovx ref x (.reg 8) op s = .ok (putData 0xE0 c s, .next) := by
  simp [handleMovx, h, setOp, regSet_acc]

theorem handleMovc_read {x : Ctx} {op : Operand} {c : Cell} (h : getOp ref x op s = .ok (Val.ofCell c)) :
    handleMovc ref x (.reg 8) op s = .ok (putData 0xE0 c s, .next) := handleMovx_read h

theorem exec_movxADptr (hpc : s.pc = some va) (ha : ∀ w, dptr s = some w → (xdataOffset w).isSome = true) :
    exec .movxADptr s = .next { putData 0xE0 ((dptr s).bind fun w => (xdataOffset w).bind (dataCell · s)) s with
      pc := some (va + 1) } := by
  refine (runForm_some hpc .movx 1 _).trans ?_
  rw [handleMovx_read (by rw [getOp, pointer_dptr]; exact getAt_xdata_cell rfl ha)]
  rfl

theorem exec_movxAInd (hpc : s.pc = some va) (j : Fin 2) :
    exec (.movxAInd j) s = .next { putData 0xE0 ((rnCell j.val s).bind fun b =>
      (xdataOffset (b.zeroExtend 16)).bind (dataCell · s)) s with pc := some (va + 1) } := by
  have hoffset : ∀ w, (rnCell j.val s).map (·.zeroExtend 16) = some w → (xdataOffset w).isSome = true := by
    intro w hw
    obtain ⟨b, -, rfl⟩ := Option.map_eq_some_iff.1 hw
    exact xdataOffset_byte b
  have hread : ∀ x : Ctx, x.seg = .xdata → getOp ref x (.ind j.val) s = .ok (Val.ofCell ((rnCell j.val s).bind fun b =>
      (xdataOffset (b.zeroExtend 16)).bind (dataCell · s))) := fun x hx => by
    rw [getOp, pointer_rn j.val (by omega)]
    exact (getAt_xdata_cell hx hoffset).trans (by rw [Option.bind_map]; rfl)
  refine (runForm_some hpc .movx 1 _).trans ?_
  rw [handleMovx_read (hread _ rfl)]
  rfl

/-- Settles O40: the cell that A receives, by whether DPTR is `UNDEF`. -/
theorem movxReads : Obligations.MovxReads := by
  unfold Obligations.MovxReads
  intro s va hpc
  refine ⟨fun hd => ?_, fun a p hd hp => ?_, exec_movxAInd hpc⟩
  · rw [exec_movxADptr hpc (by simp [hd]), hd]
    rfl
  · rw [exec_movxADptr hpc (by simp [hd, hp]), hd, Option.bind_some, hp]
    rfl

/-- MOVC reads at A plus its base: DPTR, or the address of the next instruction (R155, R241). -/
theorem exec_movc {i : Instr} {base : Option Word} (hpc : s.pc = some va)
    (hi : i = .movcADptr ∧ base = dptr s ∨ i = .movcAPc ∧ base = some (va + 1))
    (ha : ∀ w, accPlus base s = some w → (codeDataOffset w).isSome = true) :
    exec i s = .next { putData 0xE0 ((accPlus base s).bind fun w => (codeDataOffset w).bind (dataCell · s)) s with
      pc := some (va + 1) } := by
  rcases hi with ⟨rfl, rfl⟩ | ⟨rfl, rfl⟩
  · refine (runForm_some hpc .movc 1 _).trans ?_
    rw [handleMovc_read (by rw [getOp, indexedAddress_ref _ 11 (.inl rfl)]; exact getAt_code_cell rfl ha)]
    rfl
  · refine (runForm_some hpc .movc 1 _).trans ?_
    rw [handleMovc_read (by rw [getOp, indexedAddress_ref _ 12 (.inr rfl)]; exact getAt_code_cell rfl ha)]
    rfl

/-- Settles O42: the cell that A receives, by whether the sum is `UNDEF`. -/
theorem movcReads : Obligations.MovcReads := by
  unfold Obligations.MovcReads
  intro s va i base hpc hi
  refine ⟨fun hsum => ?_, fun a p hsum hp => ?_⟩
  · rw [exec_movc hpc hi (by simp [hsum]), hsum]
    rfl
  · rw [exec_movc hpc hi (by simp [hsum, hp]), hsum, Option.bind_some, hp]
    rfl

/-! ## MOVX from A -/

/-- MOVX from A is a write of A through the pointer (R239, R240). -/
theorem handleMovx_write {x : Ctx} {idx : Nat} {a : Option Word} (h : pointer ref idx s = .ok a) :
    handleMovx ref x (.ind idx) (.reg 8) s = fall (setAt ref x 0 .indirect a (Val.ofCell (acc s)) s) := by
  simp [handleMovx, getOp, regGet_acc, setOp, h]

theorem exec_movxDptrA (hpc : s.pc = some va) :
    exec .movxDptrA s =
      conclude va 1 (fall (setAt ref ⟨va, 1, .xdata⟩ 0 .indirect (dptr s) (Val.ofCell (acc s)) s)) :=
  (runForm_some hpc .movx 1 _).trans (congrArg (conclude va 1) (handleMovx_write (pointer_dptr s)))

theorem exec_movxIndA (hpc : s.pc = some va) (j : Fin 2) :
    exec (.movxIndA j) s = conclude va 1 (fall (setAt ref ⟨va, 1, .xdata⟩ 0 .indirect
      ((rnCell j.val s).map (·.zeroExtend 16)) (Val.ofCell (acc s)) s)) :=
  (runForm_some hpc .movx 1 _).trans (congrArg (conclude va 1) (handleMovx_write (pointer_rn j.val (by omega) s)))

/-- A write of A through a defined pointer that has an offset (R67, R236). -/
theorem conclude_setAt_xdata {w : Word} {p : Nat} (hp : xdataOffset w = some p) :
    conclude va 1 (fall (setAt ref ⟨va, 1, .xdata⟩ 0 .indirect (some w) (Val.ofCell (acc s)) s)) =
      .next { putData p (acc s) s with pc := some (va + 1) } := by
  rw [setAt_xdata rfl]
  simp [hp]

/-- Settles O41: both forms write A through their pointer. -/
theorem movxWrites : Obligations.MovxWrites := by
  unfold Obligations.MovxWrites
  intro s va hpc
  refine ⟨fun a p hd hp => ?_, fun j b p hb hp => ?_⟩
  · rw [exec_movxDptrA hpc, hd, conclude_setAt_xdata hp]
  · rw [exec_movxIndA hpc, hb, Option.map_some, conclude_setAt_xdata hp]

/-! ## Writes of one bit -/

/-- The run of a form whose handler is one bit write (R150). -/
theorem runForm_setBit {iid : Iid} {len : Nat} {f : Ctx → State → Handled} {b : Byte} {v : Option Bool}
    (hpc : s.pc = some va) (hseg : refSegTag iid.num = .idata)
    (hf : ∀ x : Ctx, x.idata → f x s = fall (setOp ref x 0 (Operand.ofBitaddr b false) (Val.ofBit v) s)) :
    runForm iid len f s = .next { putBit (bitAddr b) (bitNum b) v s with pc := some (va + BitVec.ofNat 16 len) } := by
  rw [runForm_some hpc, hf _ hseg, setOp_bit hseg, valBit_ofBit]
  rfl

/-- Settles O50: each of the four handlers is one bit write. -/
theorem bitWrites : Obligations.BitWrites := by
  unfold Obligations.BitWrites
  intro i b v s va h hpc
  cases i with
  | clrBit =>
    cases h
    exact runForm_setBit (f := fun x => handleClrB ref x _) hpc rfl fun _ _ => rfl
  | setbBit =>
    cases h
    exact runForm_setBit (f := fun x => handleSetbB ref x _) hpc rfl fun _ _ => rfl
  | cplBit =>
    cases h
    refine runForm_setBit (f := fun x => handleCplB ref x _) hpc rfl fun x hx => ?_
    simp [handleCplB, getOp_bit hx]
  | movBitC =>
    cases h
    refine runForm_setBit (f := fun x => handleMovBC ref x _) hpc rfl fun x hx => ?_
    simp [handleMovBC]
  | _ => cases h

/-! ## Undefined destinations -/

/-- The run of a form whose handler ends in an error (R410). -/
theorem runForm_fault {iid : Iid} {len : Nat} {f : Ctx → State → Handled} {e : Fault} (hpc : s.pc = some va)
    (hseg : refSegTag iid.num = .idata) (hf : ∀ x : Ctx, x.idata → f x s = .error e) : runForm iid len f s = .fault e := by
  rw [runForm_some hpc, hf _ hseg, conclude_error]

/-- Whatever else its handler does, a form stops at a byte destination whose address is `UNDEF` (R72, R171). -/
theorem exec_undefinedDest {i : Instr} {l : ByteLoc} {pos : Nat} (hd : destForm i = some (l, pos)) (hpc : s.pc = some va)
    (hl : l.offset s = none) : exec i s = .fault (.undefinedAddress (l.access pos)) := by
  rcases destForm_cases hd with ⟨rfl, c, hm⟩ | ⟨rfl, hm⟩ | ⟨rfl, op, c, hm⟩ | ⟨rfl, k, hm⟩ | ⟨rfl, d, hm⟩
  · rw [exec_movForm hm]
    exact runForm_fault hpc rfl fun x hx => by rw [handleMov_ref hx, wroteLoc, hl, fall_error]
  · rw [exec_xchForm hm]
    exact runForm_fault hpc rfl fun x hx => by rw [handleXch_ref hx, hl]
  · rw [exec_logicForm hm]
    cases op with
    | anl => exact runForm_fault hpc rfl fun x hx => by rw [LogicOp.handler, handleAnl, binary_ref hx, hl]
    | orl => exact runForm_fault hpc rfl fun x hx => by rw [LogicOp.handler, handleOrl, binary_ref hx, hl]
    | xrl => exact runForm_fault hpc rfl fun x hx => by rw [LogicOp.handler, handleXrl, binary_ref hx, hl]
  · rcases exec_stepForm hm s with ⟨-, he⟩ | ⟨-, he⟩
    · rw [he]
      exact runForm_fault hpc rfl fun x hx => by rw [handleInc, update_ref hx, wroteLoc, hl, fall_error]
    · rw [he]
      exact runForm_fault hpc rfl fun x hx => by rw [handleDec, update_ref hx, wroteLoc, hl, fall_error]
  · rw [exec_djnzForm hm]
    exact runForm_fault hpc rfl fun x hx => by simp [handleDjnz, getOp_loc hx, setOp_loc hx, hl]

/-- A location has no offset when its bank or its pointer is `UNDEF` (R72, R173). -/
theorem offset_eq_none_iff (l : ByteLoc) (s : State) : l.offset s = none ↔
    (∃ n : Fin 8, l = .rn n ∧ psw s = none) ∨ ∃ j : Fin 2, l = .ind j ∧ rnCell j.val s = none := by
  cases l with
  | acc | dir => simp [ByteLoc.offset]
  | ind j => simp [ByteLoc.offset]
  | rn n => simp [ByteLoc.offset, rnAddr]

theorem dptr_eq_none (h : s.store.read 0x83 = none ∨ s.store.read 0x82 = none) : dptr s = none := by
  unfold dptr
  rcases h with h | h
  · rw [h]
  · rw [h]; cases s.store.read 0x83 <;> rfl

/-- Settles O57: byte destinations by `exec_undefinedDest`, the two MOVX writes by their pointers. -/
theorem undefinedDestinationTraps : Obligations.UndefinedDestinationTraps := by
  unfold Obligations.UndefinedDestinationTraps
  refine ⟨fun i l pos s va hd hpc => ⟨exec_undefinedDest hd hpc, offset_eq_none_iff l s⟩,
    fun s va hpc => ⟨fun j hj => ?_, fun h => ?_⟩⟩
  · rw [exec_movxIndA hpc, hj]
    rfl
  · rw [exec_movxDptrA hpc, dptr_eq_none h]
    rfl

end

end Sys2Proof.Machine
end

section
/-! PROOFS. The encoder and the decoder of REF undo each other (R122, R130 to R139), and the first bytes with no ROM
entry (R113). What an operand's descriptor holds and what its bytes hold are told apart: `Operand.zeroFields` keeps the
one and `Operand.fieldBytes` gives the other. -/

namespace Sys2Proof

/-! ## Operand fields and their bytes -/

theorem bitaddrOf_split (b : Byte) : bitaddrOf (b &&& 0xF8) (b.extractLsb' 0 3) = b := by
  revert b; decide

theorem bitBase_low_bits (b : Byte) : (b &&& 0xF8) &&& 0x07 = 0 := by
  revert b; decide

/-- A well-formed bit operand is that of its bit-address byte (R48, R105). -/
theorem ofBitaddr_bitaddrOf {base : Byte} (k : BitVec 3) (neg : Bool) (h : (Operand.bit base k neg).WellFormed = true) :
    Operand.ofBitaddr (bitaddrOf base k) neg = .bit base k neg := by
  replace h : base &&& 0x07 = 0 := beq_iff_eq.1 h
  have hbase : bitaddrOf base k &&& 0xF8 = base := by revert k; revert h; revert base; decide
  have hk : (bitaddrOf base k).extractLsb' 0 3 = k := by revert k; revert h; revert base; decide
  rw [Operand.ofBitaddr, hbase, hk]

@[simp] theorem fieldBytes_ofBitaddr (b : Byte) (neg : Bool) : (Operand.ofBitaddr b neg).fieldBytes = [b] :=
  congrArg ([·]) (bitaddrOf_split b)

@[simp] theorem wellFormed_ofBitaddr (b : Byte) (neg : Bool) : (Operand.ofBitaddr b neg).WellFormed = true :=
  beq_iff_eq.2 (bitBase_low_bits b)

@[simp] theorem wellFormed_rel (d : Int) : (Operand.rel d).WellFormed = true ↔ DispOk d := decide_eq_true_iff

theorem toInt_ofInt_disp {d : Int} (h : DispOk d) : (BitVec.ofInt 8 d).toInt = d := by
  obtain ⟨hlo, hhi⟩ := h
  rw [BitVec.toInt_ofInt]
  exact Int.bmod_eq_of_le (by omega) (by omega)

theorem dispOk_toInt (b : Byte) : DispOk b.toInt := ⟨b.le_toInt, Int.le_sub_one_of_lt b.toInt_lt⟩

/-- A 16-bit field is big-endian in REF (R73, R106). -/
theorem fieldWord_ref (x y : Byte) : refCfg.fieldWord x y = x ++ y := rfl

theorem fieldBytes_fieldWord (x y : Byte) : (Operand.imm16 (refCfg.fieldWord x y)).fieldBytes = [x, y] := by
  rw [Operand.fieldBytes, fieldWord_ref, BitVec.extractLsb'_append_eq_left, BitVec.extractLsb'_append_eq_right]

theorem fieldWord_extract (w : Word) : refCfg.fieldWord (w.extractLsb' 8 8) (w.extractLsb' 0 8) = w :=
  BitVec.extractLsb'_append_extractLsb'

/-- The operand with every field its bytes give set to zero: its variant, register and complement mark stay (R135). -/
def Operand.zeroFields : Operand → Operand
  | .reg n => .reg n
  | .imm8 _ => .imm8 0
  | .imm16 _ => .imm16 0
  | .dir _ => .dir 0
  | .ind n => .ind n
  | .bit _ _ neg => .bit 0 0 neg
  | .rel _ => .rel 0
  | .abs _ => .abs 0
  | .idx n => .idx n

theorem fieldBytes_zeroFields (o : Operand) : o.zeroFields.fieldBytes = List.replicate o.fieldBytes.length 0 := by
  cases o <;> rfl

theorem wellFormed_zeroFields (o : Operand) : o.zeroFields.WellFormed = true := by
  cases o <;> rfl

theorem zeroFields_alike (o : Operand) : o.zeroFields.Alike o := by
  cases o <;> constructor

theorem alike_zeroFields (o : Operand) : o.Alike o.zeroFields := by
  cases o <;> constructor

/-! ## Descriptors and operands -/

/-- The tag of the descriptors that build operands of this variant (R97, R135). -/
def Operand.tag : Operand → Nat
  | .reg _ => 1
  | .imm8 _ | .imm16 _ => 2
  | .dir _ => 3
  | .ind _ => 4
  | .bit _ _ neg => if neg then 6 else 5
  | .abs _ => 7
  | .rel _ => 8
  | .idx _ => 9

/-- The register an operand names, which stands in its descriptor and not in its bytes (R98). -/
def Operand.register : Operand → Option Nat
  | .reg n | .ind n | .idx n => some n
  | .imm8 _ | .imm16 _ | .dir _ | .bit .. | .abs _ | .rel _ => none

/-- A descriptor's tag and selector are those of an operand: what of the operand is not in its bytes (R97, R98). -/
abbrev OpDesc.Describes (d : OpDesc) (o : Operand) : Prop :=
  d.tag.toNat = o.tag ∧ ∀ n ∈ o.register, d.sel.toNat = n

theorem describes_zeroFields (d : OpDesc) (o : Operand) : d.Describes o.zeroFields ↔ d.Describes o := by
  cases o <;> rfl

/-- What a descriptor builds from some bytes is the well-formed operand it describes whose bytes these are (R135). -/
theorem build_eq_some_iff {d : OpDesc} {bs : List Byte} {o : Operand} :
    d.build refCfg bs = some o ↔ d.Describes o ∧ o.WellFormed = true ∧ bs = o.fieldBytes := by
  constructor
  · intro h
    unfold OpDesc.build at h
    generalize htag : d.tag.toNat = tag at h
    rcases tag with _ | _ | _ | _ | _ | _ | _ | _ | _ | _ | tag
    all_goals rcases bs with _ | ⟨x, _ | ⟨y, _ | ⟨z, bs⟩⟩⟩
    all_goals cases h
    · exact ⟨⟨htag, fun _ => Option.some.inj⟩, rfl, rfl⟩
    · exact ⟨⟨htag, nofun⟩, rfl, rfl⟩
    · exact ⟨⟨htag, nofun⟩, rfl, (fieldBytes_fieldWord x y).symm⟩
    · exact ⟨⟨htag, nofun⟩, rfl, rfl⟩
    · exact ⟨⟨htag, fun _ => Option.some.inj⟩, rfl, rfl⟩
    · exact ⟨⟨htag, nofun⟩, wellFormed_ofBitaddr x _, (fieldBytes_ofBitaddr x _).symm⟩
    · exact ⟨⟨htag, nofun⟩, wellFormed_ofBitaddr x _, (fieldBytes_ofBitaddr x _).symm⟩
    · exact ⟨⟨htag, nofun⟩, rfl, (fieldBytes_fieldWord x y).symm⟩
    · exact ⟨⟨htag, nofun⟩, (wellFormed_rel _).2 (dispOk_toInt x), by rw [Operand.fieldBytes, BitVec.ofInt_toInt]⟩
    · exact ⟨⟨htag, fun _ => Option.some.inj⟩, rfl, rfl⟩
  · rintro ⟨⟨htag, hreg⟩, hwf, rfl⟩
    unfold OpDesc.build
    rw [htag]
    cases o with
    | reg n | ind n | idx n => rw [hreg n rfl]; rfl
    | imm8 | dir => rfl
    | rel d => exact congrArg (some <| Operand.rel ·) (toInt_ofInt_disp ((wellFormed_rel d).1 hwf))
    | imm16 w => exact congrArg (some <| Operand.imm16 ·) (fieldWord_extract w)
    | abs w => exact congrArg (some <| Operand.abs ·) (fieldWord_extract w)
    | bit base k neg => cases neg <;> exact congrArg some (ofBitaddr_bitaddrOf k _ hwf)

/-- The sample of a descriptor tells its size, its tag and its selector. -/
theorem sample_eq_zeroFields_iff {d : OpDesc} {o : Operand} :
    d.sample = some o.zeroFields ↔ d.bytes = some o.fieldBytes.length ∧ d.Describes o := by
  simp [OpDesc.sample, Option.bind_eq_some_iff, build_eq_some_iff, describes_zeroFields, wellFormed_zeroFields,
    fieldBytes_zeroFields]

theorem mapM_sample_cons_iff {d : OpDesc} {ds : List OpDesc} {ops : List Operand} :
    (d :: ds).mapM OpDesc.sample = some (ops.map Operand.zeroFields) ↔
      ∃ o os, ops = o :: os ∧ d.sample = some o.zeroFields ∧
        ds.mapM OpDesc.sample = some (os.map Operand.zeroFields) := by
  cases ops with
  | nil => simp [List.mapM_cons, Option.bind_eq_some_iff]
  | cons o os => simp [List.mapM_cons, Option.bind_eq_some_iff]

/-! ## Operands from a byte sequence -/

theorem append_prefix_iff {α : Type} {xs ys l : List α} :
    xs ++ ys <+: l ↔ xs <+: l ∧ ys <+: l.drop xs.length := by
  constructor
  · rintro ⟨zs, rfl⟩
    simp
  · rintro ⟨⟨zs, rfl⟩, h⟩
    simpa using h

/-- Inside the sequence, the bytes read are the next `k` (R136). -/
theorem readBytes_ofList {bytes : List Byte} {off cur k : Nat} (h : off + cur + k ≤ bytes.length) :
    readBytes (Buffer.ofList bytes) off cur k = .ok ((bytes.drop (off + cur)).take k) := by
  induction k generalizing cur with
  | zero => rfl
  | succ k ih =>
    have hcell : (Buffer.ofList bytes).cell (off + cur) = some bytes[off + cur] := List.getElem?_eq_getElem (by omega)
    rw [readBytes, hcell, List.drop_eq_getElem_cons (by omega), List.take_succ_cons]
    simp only [ih (cur := cur + 1) (by omega)]
    rfl

section
variable {bytes : List Byte} {off cur n : Nat} {bad : DecodeError} {d : OpDesc} {ds : List OpDesc} {ops : List Operand}

theorem add_length_le_of_prefix {bs : List Byte} (hcur : cur ≤ bytes.length) (h : bs <+: bytes.drop cur) :
    cur + bs.length ≤ bytes.length := by
  have hlen := h.length_le
  rw [List.length_drop] at hlen
  omega

/-- One descriptor decodes the operand it describes whose bytes come next, and the others decode the rest (R134). -/
theorem decodeOperands_cons_eq_ok_iff (hcur : off + cur ≤ bytes.length) :
    decodeOperands refCfg (Buffer.ofList bytes) off bad (d :: ds) cur = .ok (ops, n) ↔
      ∃ o os, ops = o :: os ∧ (d.sample = some o.zeroFields ∧ o.WellFormed = true) ∧
        o.fieldBytes <+: bytes.drop (off + cur) ∧
        decodeOperands refCfg (Buffer.ofList bytes) off bad ds (cur + o.fieldBytes.length) = .ok (os, n) := by
  have hsize : (Buffer.ofList bytes).size = bytes.length := rfl
  constructor
  · intro h
    unfold decodeOperands at h
    split at h
    · cases h
    next k hk =>
    split at h
    · cases h
    next hle =>
    rw [hsize, Nat.not_lt] at hle
    simp only [readBytes_ofList hle] at h
    split at h
    · cases h
    next o ho =>
    obtain ⟨hdesc, hwf, hbs⟩ := build_eq_some_iff.1 ho
    have hlen : k = o.fieldBytes.length := by
      rw [← hbs, List.length_take, List.length_drop]; omega
    subst hlen
    split at h
    · cases h
    next os _ hrest =>
    cases h
    exact ⟨o, os, rfl, ⟨sample_eq_zeroFields_iff.2 ⟨hk, hdesc⟩, hwf⟩, hbs ▸ List.take_prefix _ _, hrest⟩
  · rintro ⟨o, os, rfl, ⟨hs, hwf⟩, hpre, hrest⟩
    obtain ⟨hk, hdesc⟩ := sample_eq_zeroFields_iff.1 hs
    have hle := add_length_le_of_prefix hcur hpre
    have hbuild : d.build refCfg o.fieldBytes = some o := build_eq_some_iff.2 ⟨hdesc, hwf, rfl⟩
    simp only [decodeOperands, hk, hsize, if_neg (Nat.not_lt.2 hle), readBytes_ofList hle,
      ← List.prefix_iff_eq_take.1 hpre, hbuild, hrest]

/-- The operands decoded are those the descriptors describe whose bytes come next (R134, R138). -/
theorem decodeOperands_eq_ok_iff (hcur : off + cur ≤ bytes.length) :
    decodeOperands refCfg (Buffer.ofList bytes) off bad ds cur = .ok (ops, n) ↔
      ds.mapM OpDesc.sample = some (ops.map Operand.zeroFields) ∧ (∀ o ∈ ops, o.WellFormed = true) ∧
      ops.flatMap Operand.fieldBytes <+: bytes.drop (off + cur) ∧
      n = cur + (ops.flatMap Operand.fieldBytes).length := by
  induction ds generalizing cur ops with
  | nil =>
    rw [decodeOperands]
    cases ops with
    | nil => simpa using eq_comm
    | cons => simp
  | cons d ds ih =>
    rw [decodeOperands_cons_eq_ok_iff hcur]
    constructor
    · rintro ⟨o, os, rfl, ⟨hs, hwf⟩, hpre, hrest⟩
      have hle := add_length_le_of_prefix hcur hpre
      obtain ⟨hss, hwfs, hpres, rfl⟩ := (ih (by omega)).1 hrest
      rw [List.flatMap_cons, append_prefix_iff, List.drop_drop, List.length_append, Nat.add_assoc off,
        ← Nat.add_assoc cur]
      exact ⟨mapM_sample_cons_iff.2 ⟨o, os, rfl, hs, hss⟩, List.forall_mem_cons.2 ⟨hwf, hwfs⟩, ⟨hpre, hpres⟩, rfl⟩
    · rintro ⟨hs, hwf, hpre, rfl⟩
      obtain ⟨o, os, rfl, hs, hss⟩ := mapM_sample_cons_iff.1 hs
      obtain ⟨hwf, hwfs⟩ := List.forall_mem_cons.1 hwf
      rw [List.flatMap_cons, append_prefix_iff, List.drop_drop, Nat.add_assoc off] at hpre
      obtain ⟨hpre, hpres⟩ := hpre
      have hle := add_length_le_of_prefix hcur hpre
      refine ⟨o, os, rfl, ⟨hs, hwf⟩, hpre, (ih (by omega)).2 ⟨hss, hwfs, hpres, ?_⟩⟩
      rw [List.flatMap_cons, List.length_append, Nat.add_assoc]

end

/-! ## Forms and their operands -/

/-- Operands like those of a form are those of an instruction with the same iid (R110). -/
theorem ofOperands_of_alike {i : Instr} {ops : List Operand} (h : List.Forall₂ Operand.Alike i.operands ops)
    (hwf : ∀ o ∈ ops, o.WellFormed = true) :
    ∃ j : Instr, Instr.ofOperands i.iid ops = some j ∧ j.iid = i.iid ∧ j.operands = ops := by
  cases i with
  | nop | ret | clrC | setbC | cplC => cases h; exact ⟨_, rfl, rfl, rfl⟩
  | clrA | cplA | incA | decA | incDptr | jmpADptr | push | pop | incDir | decDir | ljmp | lcall | sjmp | jc | jnc | jz
  | jnz =>
    obtain _ | ⟨⟨⟩, ⟨⟩⟩ := h
    exact ⟨_, rfl, rfl, rfl⟩
  | clrBit | setbBit | cplBit | movCBit | movBitC | anlCBit | anlCNbit | orlCBit | orlCNbit =>
    obtain _ | ⟨⟨⟩, ⟨⟩⟩ := h
    exact ⟨_, rfl, rfl, congrArg ([·]) (ofBitaddr_bitaddrOf _ _ (hwf _ List.mem_cons_self))⟩
  | incInd n | incRn n | decInd n | decRn n =>
    obtain _ | ⟨⟨⟩, ⟨⟩⟩ := h
    fin_cases n <;> exact ⟨_, rfl, rfl, rfl⟩
  | movAImm | movADir | movDirA | movDirImm | movDptrImm | movxADptr | movxDptrA | movcADptr | movcAPc | xchADir
  | addAImm | addADir | addcAImm | addcADir | subbAImm | subbADir | anlAImm | anlADir | anlDirA | anlDirImm
  | orlAImm | orlADir | orlDirA | orlDirImm | xrlAImm | xrlADir | xrlDirA | xrlDirImm | djnzDir =>
    obtain _ | ⟨⟨⟩, _ | ⟨⟨⟩, ⟨⟩⟩⟩ := h
    exact ⟨_, rfl, rfl, rfl⟩
  | jb | jnb =>
    obtain _ | ⟨⟨⟩, _ | ⟨⟨⟩, ⟨⟩⟩⟩ := h
    exact ⟨_, rfl, rfl, congrArg ([·, _]) (ofBitaddr_bitaddrOf _ _ (hwf _ List.mem_cons_self))⟩
  | movAInd n | movARn n | movRnA n | movRnImm n | movRnDir n | movDirRn _ n | movDirInd _ n | movIndA n | movIndImm n
  | movIndDir n | movxAInd n | movxIndA n | xchAInd n | xchARn n | addAInd n | addARn n | addcAInd n | addcARn n
  | subbAInd n | subbARn n | anlAInd n | anlARn n | orlAInd n | orlARn n | xrlAInd n | xrlARn n | djnzRn n =>
    obtain _ | ⟨⟨⟩, _ | ⟨⟨⟩, ⟨⟩⟩⟩ := h
    fin_cases n <;> exact ⟨_, rfl, rfl, rfl⟩
  | cjneAImm | cjneADir =>
    obtain _ | ⟨⟨⟩, _ | ⟨⟨⟩, _ | ⟨⟨⟩, ⟨⟩⟩⟩⟩ := h
    exact ⟨_, rfl, rfl, rfl⟩
  | cjneIndImm n | cjneRnImm n =>
    obtain _ | ⟨⟨⟩, _ | ⟨⟨⟩, _ | ⟨⟨⟩, ⟨⟩⟩⟩⟩ := h
    fin_cases n <;> exact ⟨_, rfl, rfl, rfl⟩

/-- A form is recognised from its own iid and operands (R110). -/
theorem ofOperands_operands (i : Instr) : Instr.ofOperands i.iid i.operands = some i := by
  cases i with
  | clrBit b | setbBit b | cplBit b | movCBit b | movBitC b | anlCBit b | anlCNbit b | orlCBit b | orlCNbit b | jb b
  | jnb b =>
    simp only [Instr.iid, Instr.operands, Instr.ofOperands, recogAnlC, recogOrlC, Operand.ofBitaddr, bitaddrOf_split]
  | movAInd n | movARn n | movRnA n | movRnImm n | movRnDir n | movDirRn _ n | movDirInd _ n | movIndA n | movIndImm n
  | movIndDir n | movxAInd n | movxIndA n | xchAInd n | xchARn n | addAInd n | addARn n | addcAInd n | addcARn n
  | subbAInd n | subbARn n | anlAInd n | anlARn n | orlAInd n | orlARn n | xrlAInd n | xrlARn n | djnzRn n
  | cjneIndImm n | cjneRnImm n | incInd n | incRn n | decInd n | decRn n =>
    fin_cases n <;> rfl
  | _ => rfl

/-- An instruction is determined by its iid and its operands (R110). -/
theorem eq_of_iid_of_operands {i j : Instr} (hiid : i.iid = j.iid) (hops : i.operands = j.operands) : i = j := by
  have h := ofOperands_operands i
  rw [hiid, hops, ofOperands_operands] at h
  exact (Option.some.inj h).symm

theorem wellFormed_iff_operands (i : Instr) : i.WellFormed = true ↔ ∀ o ∈ i.operands, o.WellFormed = true := by
  cases i with
  | clrBit | setbBit | cplBit | movCBit | movBitC | anlCBit | anlCNbit | orlCBit | orlCNbit | jb | jnb =>
    simp [Instr.WellFormed, Instr.operands]
  | _ => simp [Instr.WellFormed, Instr.operands, Operand.WellFormed]

theorem ofNum_num (h : Iid) : Iid.ofNum h.num = some h := by
  cases h <;> rfl

theorem ofOpcode_opcode (i : Instr) (va : Word) : Instr.ofOpcode (i.opcode va) = some i := by
  have hiid : Iid.ofNum (i.opcode va).iid = some i.iid := ofNum_num i.iid
  rw [Instr.ofOpcode, hiid]
  exact ofOperands_operands i

/-! ## The ROM entry of an opcode byte -/

/-- The REF ROM entry of a byte (R93, R94). -/
abbrev refEntry (b : Byte) : RomEntry := RomEntry.ofWord (refRom b)

/-- A byte's entry is well formed and agrees with an instruction of which it is the opcode byte (R94, R110, R111). -/
abbrev RowOf (b : Byte) (i : Instr) : Prop :=
  i.opcodeByte = b ∧ Laws.RomAgrees.entryOf b i.iid i.operands.length ∧ (refEntry b).ok refCfg 1 = true

theorem refRom_row : ∀ b : Byte, (refEntry b).sample.all (RowOf b ·) = true := by decide

theorem rowOf_of_sample {b : Byte} {i : Instr} (h : (refEntry b).sample = some i) : RowOf b i :=
  of_decide_eq_true ((Option.all_eq_true _ _).1 (refRom_row b) i h)

theorem exists_sample_of_valid {b : Byte} (hv : (refEntry b).valid = true) :
    ∃ z, (refEntry b).sample = some z ∧ (refEntry b).descs.mapM OpDesc.sample = some z.operands := by
  obtain ⟨z, hz, hform⟩ := (Option.any_eq_true _ _).1 (refRom_ofForm b hv)
  obtain ⟨-, hops⟩ := of_decide_eq_true hform
  exact ⟨z, hz, hops⟩

theorem sample_eq_ofOperands {e : RomEntry} {h : Iid} {ops : List Operand} (hiid : Iid.ofNum e.iid = some h)
    (hops : e.descs.mapM OpDesc.sample = some ops) : e.sample = Instr.ofOperands h ops := by
  rw [RomEntry.sample, hiid, hops]

/-- The entry of an instruction's opcode byte has its iid, and its descriptors describe its operands (R110). -/
theorem refRom_opcodeByte (i : Instr) : Iid.ofNum (refEntry i.opcodeByte).iid = some i.iid ∧
    (refEntry i.opcodeByte).descs.mapM OpDesc.sample = some (i.operands.map Operand.zeroFields) := by
  cases i with
  | movAInd n | movARn n | movRnA n | movRnImm n | movRnDir n | movDirRn _ n | movDirInd _ n | movIndA n | movIndImm n
  | movIndDir n | movxAInd n | movxIndA n | xchAInd n | xchARn n | addAInd n | addARn n | addcAInd n | addcARn n
  | subbAInd n | subbARn n | anlAInd n | anlARn n | orlAInd n | orlARn n | xrlAInd n | xrlARn n | djnzRn n
  | cjneIndImm n | cjneRnImm n | incInd n | incRn n | decInd n | decRn n =>
    simp only [Instr.iid, Instr.operands, Instr.opcodeByte, List.map, Operand.zeroFields]
    revert n
    decide
  | _ =>
    simp only [Instr.iid, Instr.operands, Instr.opcodeByte, List.map, Operand.zeroFields, Operand.ofBitaddr]
    decide

theorem exists_sample_opcodeByte (i : Instr) :
    ∃ z, (refEntry i.opcodeByte).sample = some z ∧ z.iid = i.iid ∧ z.operands = i.operands.map Operand.zeroFields := by
  obtain ⟨hiid, hops⟩ := refRom_opcodeByte i
  have halike : List.Forall₂ Operand.Alike i.operands (i.operands.map Operand.zeroFields) :=
    List.forall₂_map_right_iff.2 (List.forall₂_same.2 fun o _ => alike_zeroFields o)
  obtain ⟨z, hz, hziid, hzops⟩ := ofOperands_of_alike halike (by simp [wellFormed_zeroFields])
  exact ⟨z, (sample_eq_ofOperands hiid hops).trans hz, hziid, hzops⟩

theorem rowOf_opcodeByte (i : Instr) : RowOf i.opcodeByte i := by
  obtain ⟨z, hz, hiid, hops⟩ := exists_sample_opcodeByte i
  obtain ⟨-, hagrees, hok⟩ := rowOf_of_sample hz
  rw [hiid, hops, List.length_map] at hagrees
  exact ⟨rfl, hagrees, hok⟩

/-- Operands that the entry of a byte describes are those of an instruction with that opcode byte: an entry's sample
tells its byte, so no two bytes are of one form (R110). -/
theorem exists_instr_of_valid {b : Byte} {ops : List Operand} (hv : (refEntry b).valid = true)
    (hops : (refEntry b).descs.mapM OpDesc.sample = some (ops.map Operand.zeroFields))
    (hwf : ∀ o ∈ ops, o.WellFormed = true) : ∃ i : Instr, i.opcodeByte = b ∧ i.operands = ops := by
  obtain ⟨z, hz, hzops⟩ := exists_sample_of_valid hv
  replace hzops : z.operands = ops.map Operand.zeroFields := Option.some.inj (hzops.symm.trans hops)
  have halike : List.Forall₂ Operand.Alike z.operands ops :=
    hzops ▸ List.forall₂_map_left_iff.2 (List.forall₂_same.2 fun o _ => zeroFields_alike o)
  obtain ⟨i, -, hiid, rfl⟩ := ofOperands_of_alike halike hwf
  obtain ⟨z', hz', hziid, hzops'⟩ := exists_sample_opcodeByte i
  obtain rfl := eq_of_iid_of_operands (hziid.trans hiid) (hzops'.trans hzops.symm)
  exact ⟨i, (rowOf_of_sample hz').1.symm.trans (rowOf_of_sample hz).1, rfl⟩

/-- The bytes whose entry is empty are the thirty of R113. -/
theorem refEntry_valid_eq_false_iff : ∀ b : Byte, (refEntry b).valid = false ↔ b ∈
    ([0x01, 0x03, 0x10, 0x11, 0x13, 0x21, 0x23, 0x31, 0x32, 0x33, 0x41, 0x51, 0x61, 0x71, 0x81, 0x84, 0x85, 0x91, 0xA1,
      0xA4, 0xA5, 0xB1, 0xC1, 0xC4, 0xD1, 0xD4, 0xD6, 0xD7, 0xE1, 0xF1] : List Byte) := by decide

/-! ## The decoder at a first byte -/

/-- The Opcode an entry makes of decoded operands and a length (R135, R138). -/
abbrev RomEntry.opcode (e : RomEntry) (va : Word) (ops : List Operand) (len : Nat) : Opcode :=
  { address := va, iid := e.iid, mnem := e.mnem, prefixes := 0, length := len, operands := ops, flags := e.cf }

/-- The Opcode of an instruction is the one the entry of its opcode byte makes (R47, R110). -/
theorem opcode_refEntry (i : Instr) (va : Word) :
    (refEntry i.opcodeByte).opcode va i.operands i.length = i.opcode va := by
  obtain ⟨-, ⟨-, -, hiid, hmnem, hcf, -⟩, -⟩ := rowOf_opcodeByte i
  rw [RomEntry.opcode, hiid, hmnem, hcf, Instr.opcode]

section
variable {buf : Buffer} {off : Nat} {va : Word} {b : Byte}

theorem readBytes_ne_invalid {cur k : Nat} {x : Byte} : readBytes buf off cur k ≠ .error (.invalid x) := by
  induction k generalizing cur with
  | zero => exact nofun
  | succ k ih =>
    intro h
    unfold readBytes at h
    split at h
    · cases h
    · split at h
      · cases h
      · next he => cases h; exact ih he

theorem decodeOperands_ne_invalid {c : Cfg} {bad : DecodeError} {x : Byte} (hbad : bad ≠ .invalid x) {ds : List OpDesc}
    {cur : Nat} : decodeOperands c buf off bad ds cur ≠ .error (.invalid x) := by
  induction ds generalizing cur with
  | nil => exact nofun
  | cons d ds ih =>
    intro h
    unfold decodeOperands at h
    split at h
    · cases h; exact hbad rfl
    · split at h
      · cases h
      · split at h
        · next he => cases h; exact readBytes_ne_invalid he
        · split at h
          · cases h; exact hbad rfl
          · split at h
            · next he => cases h; exact ih he
            · cases h

theorem decodeAt_truncated (hle : buf.size ≤ off) : decodeAt refCfg buf off va = .error (.truncated 1 0) := by
  simp [decodeAt, walkTables, hle]

theorem decodeAt_invalid (hlt : off < buf.size) (hb : buf.cell off = some b) (hv : (refEntry b).valid = false) :
    decodeAt refCfg buf off va = .error (.invalid b) := by
  have hrom : refCfg.rom = refRom := rfl
  simp [decodeAt, walkTables, hrom, hb, hv, Nat.not_le.2 hlt]

/-- A valid entry of REF ends the table walk, and none is malformed (R111, R131, R132). -/
theorem walkTables_valid (hlt : off < buf.size) (hb : buf.cell off = some b) (hv : (refEntry b).valid = true) (n : Nat) :
    walkTables refCfg buf off (n + 1) none refCfg.rom 0 = .ok (refEntry b, 1, none, b) ∧
      (refEntry b).ok refCfg 1 = true := by
  have hrom : refCfg.rom = refRom := rfl
  obtain ⟨z, hz, -⟩ := exists_sample_of_valid hv
  obtain ⟨-, ⟨-, hkind, -⟩, hok⟩ := rowOf_of_sample hz
  exact ⟨by simp [walkTables, hrom, hb, hv, hkind, Nat.not_le.2 hlt], hok⟩

/-- At a byte with a valid entry, decoding is decoding the entry's operands (R134). -/
theorem decodeAt_valid_eq_ok_iff (hlt : off < buf.size) (hb : buf.cell off = some b) (hv : (refEntry b).valid = true)
    {opc : Opcode} : decodeAt refCfg buf off va = .ok opc ↔
      ∃ ops n, decodeOperands refCfg buf off (.malformed none b) (refEntry b).descs 1 = .ok (ops, n) ∧
        opc = (refEntry b).opcode va ops n := by
  obtain ⟨hwalk, hok⟩ := walkTables_valid hlt hb hv (buf.size - off)
  simp only [decodeAt, hwalk, hok, if_true]
  constructor
  · intro h
    split at h
    · cases h
    · next ops n hops => cases h; exact ⟨ops, n, hops, rfl⟩
  · rintro ⟨ops, n, hops, rfl⟩
    rw [hops]

theorem decodeAt_valid_ne_invalid (hlt : off < buf.size) (hb : buf.cell off = some b) (hv : (refEntry b).valid = true)
    (x : Byte) : decodeAt refCfg buf off va ≠ .error (.invalid x) := by
  obtain ⟨hwalk, hok⟩ := walkTables_valid hlt hb hv (buf.size - off)
  simp only [decodeAt, hwalk, hok, if_true]
  intro h
  split at h
  · next he => cases h; exact decodeOperands_ne_invalid (bad := .malformed none b) nofun he
  · cases h

end

/-! ## Decoding and encoding -/

section
variable {bytes : List Byte} {off va : Nat}

/-- Where the encoding of a well-formed instruction stands, the decoder reads that instruction (R122). -/
theorem decode_of_encode {i : Instr} (hwf : i.WellFormed = true) (hpre : encode i <+: bytes.drop off) :
    decode refCfg bytes off va = .ok (i.opcode (BitVec.ofNat 16 va)) := by
  obtain ⟨-, ⟨hv, -⟩, -⟩ := rowOf_opcodeByte i
  have hlt : off < bytes.length := by
    by_contra hle
    rw [List.drop_eq_nil_of_le (Nat.not_lt.1 hle), List.prefix_nil] at hpre
    cases hpre
  rw [List.drop_eq_getElem_cons hlt] at hpre
  obtain ⟨hbyte, hfields⟩ := List.cons_prefix_cons.1 hpre
  have hb : (Buffer.ofList bytes).cell off = some i.opcodeByte := hbyte ▸ List.getElem?_eq_getElem hlt
  have hops : decodeOperands refCfg (Buffer.ofList bytes) off (.malformed none i.opcodeByte)
      (refEntry i.opcodeByte).descs 1 = .ok (i.operands, i.length) :=
    (decodeOperands_eq_ok_iff hlt).2
      ⟨(refRom_opcodeByte i).2, (wellFormed_iff_operands i).1 hwf, hfields, Nat.add_comm _ _⟩
  exact (decodeAt_valid_eq_ok_iff hlt hb hv).2 ⟨i.operands, i.length, hops, (opcode_refEntry i _).symm⟩

/-- What the decoder reads is a well-formed instruction whose encoding stands there (R122, R138). -/
theorem exists_encode_of_decode {opc : Opcode} (h : decode refCfg bytes off va = .ok opc) :
    ∃ i : Instr, i.WellFormed = true ∧ encode i <+: bytes.drop off ∧ opc = i.opcode (BitVec.ofNat 16 va) := by
  unfold decode at h
  obtain hle | hlt := le_or_gt bytes.length off
  · rw [decodeAt_truncated (buf := Buffer.ofList bytes) hle] at h
    cases h
  have hb : (Buffer.ofList bytes).cell off = some bytes[off] := List.getElem?_eq_getElem hlt
  cases hv : (refEntry bytes[off]).valid with
  | false =>
    rw [decodeAt_invalid (buf := Buffer.ofList bytes) hlt hb hv] at h
    cases h
  | true =>
    obtain ⟨ops, n, hops, rfl⟩ := (decodeAt_valid_eq_ok_iff (buf := Buffer.ofList bytes) hlt hb hv).1 h
    obtain ⟨hsamples, hwf, hfields, rfl⟩ := (decodeOperands_eq_ok_iff hlt).1 hops
    obtain ⟨i, hbyte, rfl⟩ := exists_instr_of_valid hv hsamples hwf
    refine ⟨i, (wellFormed_iff_operands i).2 hwf, ?_, ?_⟩
    · rw [List.drop_eq_getElem_cons hlt, encode, hbyte]
      exact List.cons_prefix_cons.2 ⟨rfl, hfields⟩
    · rw [← hbyte, ← opcode_refEntry, Instr.length, encode, List.length_cons, Nat.add_comm]

end

/-- Settles O1: the encoding stands where the bytes before it end. -/
theorem encodeThenDecode : Obligations.EncodeThenDecode := by
  unfold Obligations.EncodeThenDecode
  intro i pre rest va hwf
  refine ⟨decode_of_encode hwf ?_, ofOpcode_opcode i _⟩
  rw [List.append_assoc, List.drop_left]
  exact List.prefix_append _ _

/-- Settles O2: the Opcode decoded is that of an instruction whose encoding comes first, and stands for no other. -/
theorem decodeThenEncode : Obligations.DecodeThenEncode := by
  unfold Obligations.DecodeThenEncode
  intro bytes i h
  unfold decodeInstr at h
  split at h
  · next opc hopc =>
    obtain ⟨j, hwf, hpre, rfl⟩ := exists_encode_of_decode hopc
    rw [ofOpcode_opcode] at h
    cases h
    exact ⟨hwf, hpre⟩
  · cases h

/-- Settles O3: an empty entry ends the decode with this error, and behind a valid one no error is of this kind. -/
theorem illegalFirstBytes : Obligations.IllegalFirstBytes := by
  unfold Obligations.IllegalFirstBytes
  intro b rest
  have hlt : 0 < (Buffer.ofList (b :: rest)).size := Nat.succ_pos _
  have hb : (Buffer.ofList (b :: rest)).cell 0 = some b := rfl
  rw [← refEntry_valid_eq_false_iff]
  constructor
  · intro h
    by_contra hv
    rw [Bool.not_eq_false] at hv
    unfold decodeInstr at h
    split at h
    · split at h <;> cases h
    · next he => cases h; exact decodeAt_valid_ne_invalid hlt hb hv b he
  · intro hv
    simp only [decodeInstr, decode, decodeAt_invalid hlt hb hv]

end Sys2Proof
end

section
/-! PROOFS. Where control goes: the edges of every instruction (R161 to R166), the PC an execution ends with (R193, R218)
and the unconditional jumps. -/

namespace Sys2Proof.Machine

/-! ## The four ways of moving the program counter -/

/-- How an instruction moves PC, by its control-flow flags (R96): it falls through, it branches on a condition to the
displacement that is its last operand, or it is one of the five other transfers of control. -/
inductive Transfer : Instr → Prop
  | straight {i : Instr} (hcf : i.iid.cf = 0x0)
      (hedges : ∀ va emu, branchEdges i va emu = [⟨some (nextPc i va), 1⟩]) : Transfer i
  | conditional {i : Instr} {d : Int} (hcf : i.iid.cf = 0x6) (hd : condDisp i = some d)
      (hlast : i.operands.getLast? = some (.rel d))
      (hedges : ∀ va emu, branchEdges i va emu =
        [⟨some (nextPc i va), 3⟩, ⟨some (nextPc i va + BitVec.ofInt 16 d), 2⟩]) : Transfer i
  | ljmp (w : Word) : Transfer (.ljmp w)
  | sjmp (d : Int) : Transfer (.sjmp d)
  | jmpADptr : Transfer .jmpADptr
  | lcall (w : Word) : Transfer (.lcall w)
  | ret : Transfer .ret

theorem transfer (i : Instr) : Transfer i := by
  cases i with
  | ljmp w => exact .ljmp w
  | sjmp d => exact .sjmp d
  | jmpADptr => exact .jmpADptr
  | lcall w => exact .lcall w
  | ret => exact .ret
  | jc | jnc | jz | jnz | jb | jnb | cjneAImm | cjneADir | cjneIndImm | cjneRnImm | djnzDir | djnzRn =>
    exact .conditional rfl rfl rfl fun _ _ => rfl
  | _ => exact .straight rfl fun _ _ => rfl

/-! ## Edges -/

theorem targetKind_straight : targetKind 0x0 = none := rfl

theorem targetKind_conditional : targetKind 0x6 = some 2 := rfl

theorem targetKind_jump : targetKind 0xA = some 0 := rfl

theorem targetKind_call : targetKind 0x1 = some 4 := rfl

theorem targetKind_return : targetKind 0x8 = none := rfl

section
variable {k : Block} {x : Ctx} {emu : Option State} {cf kind : BitVec 4} {pos : Nat} {op : Operand}

/-- A displacement is known with and without an emulator (R151, R158, R165). -/
theorem targetEdge_rel (d : Int) :
    targetEdge k x kind pos (.rel d) emu = .ok (some ⟨some (x.relTarget d), kind⟩) := by
  cases emu <;> rfl

/-- An absolute address is known with and without an emulator (R153, R158, R165). -/
theorem targetEdge_abs (w : Word) : targetEdge k x kind pos (.abs w) emu = .ok (some ⟨some w, kind⟩) := by
  cases emu <;> rfl

/-- The sum of A and DPTR is known from an emulator only (R155, R158, R165). -/
theorem targetEdge_idx_dptr : targetEdge ref x kind pos (.idx 11) emu =
    .ok (emu.map fun s => ⟨accPlus (dptr s) s, kind ||| kindDeref⟩) := by
  cases emu with
  | none => rfl
  | some s => simp [targetEdge, isDeref, addrOp, indexedAddress_ref x 11 (.inl rfl) s]

/-- Control-flow flags without a target leave the fallthrough edge alone (R162, R164). -/
theorem getBranches_no_target (hkind : targetKind cf = none) (i : Instr) (hcf : i.iid.cf = cf) (va : Word) :
    getBranches ref (i.opcode va) emu = .ok (fallEdges (ctxOf ref i.iid i.length va) cf) := by
  subst hcf
  simp only [getBranches, Instr.opcode, hkind]
  cases i.operands.getLast? <;> rfl

/-- Control-flow flags with a target add the edge to the last operand (R164, R165). -/
theorem getBranches_target (hkind : targetKind cf = some kind) (i : Instr) (hcf : i.iid.cf = cf) (va : Word)
    (hlast : i.operands.getLast? = some op) {e : Option Edge}
    (he : ∀ pos, targetEdge ref (ctxOf ref i.iid i.length va) kind pos op emu = .ok e) :
    getBranches ref (i.opcode va) emu =
      .ok (fallEdges (ctxOf ref i.iid i.length va) cf ++ e.toList) := by
  subst hcf
  simp only [ctxOf] at he
  simp only [getBranches, Instr.opcode, ctxOf, hkind, hlast, he, except_ok_bind, except_pure]

end

/-- Settles O59: no target edge on a straight instruction and on `ret`, the edge to the last operand on the others. (The
name `branchEdges` is the table of edges itself.) -/
theorem getBranches_eq_branchEdges : Obligations.BranchEdges := by
  unfold Obligations.BranchEdges
  intro i va emu
  cases transfer i with
  | straight hcf hedges =>
    rw [getBranches_no_target targetKind_straight i hcf, hedges]
    rfl
  | conditional hcf _ hlast hedges =>
    rw [getBranches_target targetKind_conditional i hcf va hlast fun _ => targetEdge_rel _, hedges]
    rfl
  | ljmp w =>
    rw [getBranches_target targetKind_jump (.ljmp w) rfl va rfl fun _ => targetEdge_abs w]
    rfl
  | sjmp d =>
    rw [getBranches_target targetKind_jump (.sjmp d) rfl va rfl fun _ => targetEdge_rel d]
    rfl
  | jmpADptr =>
    rw [getBranches_target targetKind_jump .jmpADptr rfl va rfl fun _ => targetEdge_idx_dptr]
    cases emu <;> rfl
  | lcall w =>
    rw [getBranches_target targetKind_call (.lcall w) rfl va rfl fun _ => targetEdge_abs w]
    rfl
  | ret =>
    rw [getBranches_no_target targetKind_return .ret rfl]
    rfl

/-! ## The unconditional jumps -/

section
variable {s : State} {va : Word}

theorem exec_nop (hpc : s.pc = some va) : exec .nop s = .next { s with pc := some (va + 1) } :=
  runForm_some hpc .nop 1 _

theorem exec_ljmp (hpc : s.pc = some va) (w : Word) : exec (.ljmp w) s = .next { s with pc := some w } :=
  runForm_some hpc .ljmp 3 _

theorem exec_sjmp (hpc : s.pc = some va) (d : Int) :
    exec (.sjmp d) s = .next { s with pc := some (va + 2 + BitVec.ofInt 16 d) } :=
  runForm_some hpc .sjmp 2 _

theorem exec_jmpADptr (hpc : s.pc = some va) : exec .jmpADptr s = .next { s with pc := accPlus (dptr s) s } := by
  change runForm .jmpi 1 (fun x => handleJmpi ref x (.idx 11)) s = _
  rw [runForm_some hpc]
  simp [handleJmpi, addrOp, indexedAddress_ref _ 11 (.inl rfl) s]

end

/-- Settles O51: one lemma per jump. -/
theorem jumps : Obligations.Jumps := by
  unfold Obligations.Jumps
  exact fun _ _ hpc => ⟨exec_nop hpc, exec_ljmp hpc, exec_sjmp hpc, exec_jmpADptr hpc⟩

/-! ## The flow a handler decides -/

/-- What a branch with a displacement can decide, where the next instruction stands at `next`: it goes on, or to its
target, or to `UNDEF` (R218). -/
def BranchFlow (next : Word) (d : Int) (f : Flow) : Prop :=
  f = .next ∨ f = .goto (some (next + BitVec.ofInt 16 d)) ∨ f = .goto none

section
variable {k : Block} {x : Ctx} {s : State}

theorem fall_next (r : Except Fault State) : Yields (fun q => q.2 = Flow.next) (fall r) := by
  cases r with
  | ok u => exact .ok rfl
  | error e => exact .error e

theorem storeResult_next (op0 : Operand) (r : Val × FlagWrite) :
    Yields (fun q => q.2 = Flow.next) (storeResult k x op0 r s) := .read fun _ => fall_next _

/-- The handler of an instruction without control-flow flags executes no `pc <- t` (R96, R193). -/
theorem runHandler_next {h : Iid} (hcf : h.cf = 0x0) (ops : List Operand) :
    Yields (fun q => q.2 = Flow.next) (runHandler k x h ops s) := by
  cases h with
  | ljmp | sjmp | jmpi | lcall | ret | jc | jnc | jz | jnz | jb | jnb | cjne | djnz => cases hcf
  | nop => exact .ok rfl
  | mov | movx | movc => exact with2_yields (fun _ _ => .read fun _ => fall_next _) ops
  | push | inc | dec | cplB | movBC | movCB | pop => exact with1_yields (fun _ => .read fun _ => fall_next _) ops
  | xch => exact with2_yields (fun _ _ => .read fun _ => .read fun _ => .read fun _ => fall_next _) ops
  | add | anl | orl | xrl =>
    exact with2_yields (fun _ _ => .read fun _ => .read fun _ => storeResult_next _ _) ops
  | addc | subb =>
    exact with2_yields (fun _ _ => .read fun _ => .read fun _ => .read fun _ => storeResult_next _ _) ops
  | clrA => exact with1_yields (fun _ => storeResult_next _ _) ops
  | cplA => exact with1_yields (fun _ => .read fun _ => storeResult_next _ _) ops
  | clrC | setbC => exact fall_next _
  | cplC => exact .read fun _ => fall_next _
  | clrB | setbB => exact with1_yields (fun _ => fall_next _) ops
  | anlC | orlC => exact with1_yields (fun _ => .read fun _ => .read fun _ => fall_next _) ops

theorem branch_flow (c : Option Bool) (d : Int) :
    Yields (fun q => BranchFlow x.next d q.2) (branch k x c (.rel d) s) := by
  rw [branch_rel]
  cases c with
  | none => exact .ok (.inr (.inr rfl))
  | some b =>
    cases b with
    | false => exact .ok (.inl rfl)
    | true => exact .ok (.inr (.inl rfl))

/-- The handler of a conditional branch ends in the branch decision on its displacement (R211, R218). -/
theorem runHandler_conditional {i : Instr} {d : Int} (hd : condDisp i = some d) :
    Yields (fun q => BranchFlow x.next d q.2) (runHandler k x i.iid i.operands s) := by
  cases i with
  | jc | jnc | jz | jnz | jb | jnb => cases hd; exact .read fun _ => branch_flow _ _
  | djnzDir | djnzRn => cases hd; exact .read fun _ => .read fun _ => branch_flow _ _
  | cjneAImm | cjneADir | cjneIndImm | cjneRnImm =>
    cases hd; exact .read fun _ => .read fun _ => .read fun _ => branch_flow _ _
  | _ => cases hd

/-- A call goes to the target its operand names (R358). -/
theorem runHandler_lcall (w : Word) :
    Yields (fun q => q.2 = .goto (some w)) (runHandler k x (Instr.lcall w).iid (Instr.lcall w).operands s) := by
  change Yields _ (pushReturn k x.next s >>= fun u => pure (u, Flow.goto (some w)))
  exact .read fun _ => .ok rfl

end

/-! ## Where an execution ends -/

/-- PC after a handler that decided this flow, where the next instruction stands at `next` (R193). -/
def Flow.pc (next : Word) : Flow → Option Word
  | .next => some next
  | .goto q => q

/-- The PC an execution ends with is the one its handler's flow gives (R193). -/
theorem exec_flow {i : Instr} {s t : State} {va : Word} (P : Flow → Prop) (hpc : s.pc = some va)
    (h : exec i s = .next t)
    (hf : Yields (fun q => P q.2) (runHandler ref (ctxOf ref i.iid i.length va) i.iid i.operands s)) :
    ∃ f, P f ∧ t.pc = f.pc (nextPc i va) := by
  rw [exec_runHandler, runForm_some hpc] at h
  change conclude va i.length (runHandler ref (ctxOf ref i.iid i.length va) i.iid i.operands s) = _ at h
  generalize runHandler ref (ctxOf ref i.iid i.length va) i.iid i.operands s = r at h hf
  match r, h with
  | .ok (_, .next), rfl => exact ⟨.next, hf _ rfl, rfl⟩
  | .ok (_, .goto q), rfl => exact ⟨.goto q, hf _ rfl, rfl⟩

/-- Settles O60: the edges are those of O59, and the handler of each kind of transfer decides for one of them. -/
theorem controlFlowIsSound : Obligations.ControlFlowIsSound := by
  unfold Obligations.ControlFlowIsSound
  intro i s t va es hpc hret hexec hes
  obtain rfl : branchEdges i va (some s) = es := Except.ok.inj ((getBranches_eq_branchEdges i va (some s)).symm.trans hes)
  cases transfer i with
  | straight hcf hedges =>
    obtain ⟨_, rfl, ht⟩ := exec_flow (· = .next) hpc hexec (runHandler_next hcf _)
    rw [hedges, ht]
    exact .inl ⟨_, .head _, rfl⟩
  | @conditional _ d _ hd _ hedges =>
    obtain ⟨_, rfl | rfl | rfl, ht⟩ := exec_flow (BranchFlow (nextPc i va) d) hpc hexec
      (runHandler_conditional (x := ctxOf ref i.iid i.length va) hd)
    all_goals rw [hedges, ht]
    · exact .inl ⟨_, .head _, rfl⟩
    · exact .inl ⟨_, .tail _ (.head _), rfl⟩
    · exact .inr ⟨rfl, Option.isSome_of_mem hd⟩
  | ljmp w =>
    cases (exec_ljmp hpc w).symm.trans hexec
    exact .inl ⟨_, .head _, rfl⟩
  | sjmp d =>
    cases (exec_sjmp hpc d).symm.trans hexec
    exact .inl ⟨_, .head _, rfl⟩
  | jmpADptr =>
    cases (exec_jmpADptr hpc).symm.trans hexec
    exact .inl ⟨_, .head _, rfl⟩
  | lcall w =>
    obtain ⟨_, rfl, ht⟩ := exec_flow (· = .goto (some w)) hpc hexec (runHandler_lcall w)
    exact .inl ⟨⟨some w, 4⟩, .tail _ (.head _), ht.symm⟩
  | ret => exact absurd rfl hret

end Sys2Proof.Machine
end

section
/-! PROOFS. Words that decode (R140) and encodings that stop short (R136, R402). -/

namespace Sys2Proof

theorem decodeInstr_of_encode {i : Instr} {bytes : List Byte} (hwf : i.WellFormed = true) (h : encode i = bytes) :
    decodeInstr bytes = .ok i := by
  subst h
  have hdecode : decode refCfg (encode i) 0 0 = .ok (i.opcode 0) := decode_of_encode hwf (List.prefix_refl _)
  simp only [decodeInstr, hdecode, ofOpcode_opcode]

/-- Settles O5: each word is the encoding of the instruction it stands for. -/
theorem wordsDecode : Obligations.WordsDecode := by
  unfold Obligations.WordsDecode
  exact ⟨decodeInstr_of_encode rfl (by decide), decodeInstr_of_encode rfl (by decide),
    decodeInstr_of_encode rfl (by decide), decodeInstr_of_encode rfl (by decide),
    decodeInstr_of_encode rfl (by decide), decodeInstr_of_encode rfl (by decide)⟩

/-! ## Encodings that stop short -/

section
variable {bytes : List Byte} {off cur : Nat} {bad : DecodeError} {ds : List OpDesc} {ops : List Operand}

/-- Where the bytes of the operands described stop short, decoding them ends at an operand that runs past the sequence,
but not past those bytes (R136). -/
theorem decodeOperands_truncated (hcur : off + cur ≤ bytes.length)
    (hs : ds.mapM OpDesc.sample = some (ops.map Operand.zeroFields)) (hwf : ∀ o ∈ ops, o.WellFormed = true)
    (hpre : bytes.drop (off + cur) <+: ops.flatMap Operand.fieldBytes)
    (hshort : bytes.length < off + cur + (ops.flatMap Operand.fieldBytes).length) :
    ∃ need pos, decodeOperands refCfg (Buffer.ofList bytes) off bad ds cur = .error (.truncated need pos) ∧
      bytes.length < off + pos + need ∧ pos + need ≤ cur + (ops.flatMap Operand.fieldBytes).length := by
  have hsize : (Buffer.ofList bytes).size = bytes.length := rfl
  induction ds generalizing cur ops with
  | nil =>
    obtain rfl : ops = [] := by simpa using hs
    exact absurd hshort (Nat.not_lt.2 hcur)
  | cons d ds ih =>
    obtain ⟨o, os, rfl, ho, hos⟩ := mapM_sample_cons_iff.1 hs
    obtain ⟨hwf, hwfs⟩ := List.forall_mem_cons.1 hwf
    obtain ⟨hk, hdesc⟩ := sample_eq_zeroFields_iff.1 ho
    rw [List.flatMap_cons] at hpre
    rw [List.flatMap_cons, List.length_append] at hshort ⊢
    obtain hlt | hle := lt_or_ge bytes.length (off + cur + o.fieldBytes.length)
    · refine ⟨o.fieldBytes.length, cur, ?_, hlt, by omega⟩
      simp only [decodeOperands, hk, hsize, if_pos hlt]
    · have hfirst : o.fieldBytes <+: bytes.drop (off + cur) :=
        List.prefix_of_prefix_length_le (List.prefix_append _ _) hpre (by rw [List.length_drop]; omega)
      have hrest : bytes.drop (off + (cur + o.fieldBytes.length)) <+: os.flatMap Operand.fieldBytes := by
        rw [← Nat.add_assoc, ← List.drop_drop]
        simpa using hpre.drop o.fieldBytes.length
      obtain ⟨need, pos, hrec, hpast, hinside⟩ := ih (by omega) hos hwfs hrest (by omega)
      have hbuild : d.build refCfg o.fieldBytes = some o := build_eq_some_iff.2 ⟨hdesc, hwf, rfl⟩
      refine ⟨need, pos, ?_, hpast, by omega⟩
      simp only [decodeOperands, hk, hsize, if_neg (Nat.not_lt.2 hle), readBytes_ofList hle,
        ← List.prefix_iff_eq_take.1 hfirst, hbuild, hrec]

end

/-- At a byte with a valid entry, an error of its operands is the error of the decode (R134). -/
theorem decodeAt_valid_eq_error {buf : Buffer} {off : Nat} {va : Word} {b : Byte} {e : DecodeError} (hlt : off < buf.size)
    (hb : buf.cell off = some b) (hv : (refEntry b).valid = true)
    (hops : decodeOperands refCfg buf off (.malformed none b) (refEntry b).descs 1 = .error e) :
    decodeAt refCfg buf off va = .error e := by
  obtain ⟨hwalk, hok⟩ := walkTables_valid hlt hb hv (buf.size - off)
  simp only [decodeAt, hwalk, hok, if_true, hops]

/-- Settles O4: with no byte left the opcode byte is missing, with fewer than all of them bytes of an operand are. -/
theorem truncatedEncodings : Obligations.TruncatedEncodings := by
  unfold Obligations.TruncatedEncodings
  intro i n hwf hn
  have hlen : i.length = (i.operands.flatMap Operand.fieldBytes).length + 1 := rfl
  cases n with
  | zero => exact ⟨1, 0, rfl, Nat.one_pos, by omega⟩
  | succ m =>
    obtain ⟨-, ⟨hv, -⟩, -⟩ := rowOf_opcodeByte i
    have hbytes : (encode i).take (m + 1) = i.opcodeByte :: (i.operands.flatMap Operand.fieldBytes).take m := rfl
    have hsize : ((encode i).take (m + 1)).length = m + 1 := List.length_take_of_le hn.le
    have hlt : 0 < (Buffer.ofList ((encode i).take (m + 1))).size := by rw [hbytes]; exact Nat.succ_pos _
    obtain ⟨need, pos, hops, hpast, hinside⟩ := decodeOperands_truncated (bytes := (encode i).take (m + 1)) (off := 0)
      (cur := 1) (bad := .malformed none i.opcodeByte) (by omega) (refRom_opcodeByte i).2
      ((wellFormed_iff_operands i).1 hwf) (hbytes ▸ List.take_prefix _ _) (by omega)
    refine ⟨need, pos, ?_, by omega, by omega⟩
    simp only [decodeInstr, decode, decodeAt_valid_eq_error hlt rfl hv hops]

end Sys2Proof
end

section
/-! PROOFS. The register file: the banks of the working registers (R173, R185), DPTR as its two halves (R174, R175), and the
indexes at which a register access is a table error (R26, R183, R408). -/

namespace Sys2Proof.Machine

/-! ## The banks -/

section
variable {n p : Nat} {s : State}

theorem rnAddr_of_psw {b : Byte} (hb : psw s = some b) : rnAddr n s = some (n + (b &&& 0x18).toNat) := by
  rw [rnAddr, hb, Option.map_some]

/-- Status bytes that select different banks place a working register at different addresses (R29). -/
theorem bank_address_ne {b b' : Byte} (h : b' &&& 0x18 ≠ b &&& 0x18) :
    n + (b &&& 0x18).toNat ≠ n + (b' &&& 0x18).toNat :=
  fun heq => h (BitVec.eq_of_toNat_eq (Nat.add_left_cancel heq).symm)

/-- A working register's own cell is never the status byte, so a write to it leaves the bank selected. -/
theorem rnCell_putData_same (hn : n < 8) (hp : rnAddr n s = some p) (v : Cell) : rnCell n (putData p v s) = v := by
  have hlow := rnAddr_lt hn hp
  rw [rnCell, rnAddr_congr (psw_putData_ne p v s (by omega)), hp, Option.bind_some, putData_store,
    Memory.read_write_same]

/-- With a status byte stored, a working register is the cell of the bank that byte selects. -/
theorem rnCell_putStatus (hn : n < 8) (b : Byte) (s : State) :
    rnCell n (putData 0xD0 (some b) s) = s.store.read (n + (b &&& 0x18).toNat) := by
  have hbank := bank_le b
  have hpsw : psw (putData 0xD0 (some b) s) = some b := by rw [psw, putData_store, Memory.read_write_same]
  rw [rnCell, rnAddr_of_psw hpsw, Option.bind_some, putData_store, Memory.read_write_ne _ _ (by omega)]

end

/-- Settles O22: the write lands in the cell of the selected bank, and every other bank has the register elsewhere. -/
theorem bankAliasing : Obligations.BankAliasing := by
  unfold Obligations.BankAliasing
  intro n v s b hn hb
  have haddr : rnAddr n s = some (n + (b &&& 0x18).toNat) := rnAddr_of_psw hb
  refine ⟨putData (n + (b &&& 0x18).toNat) (valCell v) s, ?_, ?_, fun b' hbank => ?_⟩
  · rw [regSet_rn n hn, haddr]
  · rw [regGet_rn n hn, rnCell_putData_same hn haddr]
  · rw [regGet_rn n hn, regGet_rn n hn, rnCell_putStatus hn, rnCell_putStatus hn, putData_store,
      Memory.read_write_ne _ _ (bank_address_ne hbank)]

/-! ## DPTR -/

/-- DPTR after writes of its two halves is their concatenation, `UNDEF` if either is (R174). -/
theorem dptr_putHalves (h l : Cell) (s : State) :
    dptr (putData 0x82 l (putData 0x83 h s)) = h.bind fun h => l.map (h ++ ·) := by
  have hhigh : (putData 0x82 l (putData 0x83 h s)).store.read 0x83 = h := by simp [Memory.read_write_ne]
  have hlow : (putData 0x82 l (putData 0x83 h s)).store.read 0x82 = l := Memory.read_write_same _ _ _
  rw [dptr, hhigh, hlow]
  cases h <;> cases l <;> rfl

/-- A word is the concatenation of its halves; `UNDEF` has both halves `UNDEF` (R175). -/
theorem halves_concat (w : Option Word) :
    ((w.map (·.extractLsb' 8 8)).bind fun h : Byte => (w.map (·.extractLsb' 0 8)).map fun l : Byte => h ++ l) = w := by
  cases w with
  | none => rfl
  | some w => exact congrArg some BitVec.extractLsb'_append_extractLsb'

/-- Settles O23: both kinds of write put the two halves, which `dptr` concatenates. -/
theorem splitRegister : Obligations.SplitRegister := by
  unfold Obligations.SplitRegister
  refine ⟨fun w s => ⟨_, regSet_dptr (Val.ofWord w) s, ?_, ?_, ?_⟩, fun h l s => ⟨_, _,
    memWrite_ref (locate_sfr (by decide) (by decide)) h s, memWrite_ref (locate_sfr (by decide) (by decide)) l _, ?_⟩⟩
  · simp [Memory.read_write_ne]
  · simp
  · rw [regGet_dptr, dptr_putHalves, valWord_ofWord, halves_concat]
  · rw [regGet_dptr, dptr_putHalves]
    cases h <;> cases l <;> rfl

/-! ## Indexes without a usable descriptor -/

section
variable {k : Block} {idx : Nat}

/-- No descriptor at this index, or one that breaks R26 (or the width limit of log entry 4). -/
abbrev Block.NoRegister (k : Block) (idx : Nat) : Prop :=
  k.cfg.registers[idx]? = none ∨ ∃ d, k.cfg.registers[idx]? = some d ∧ d.WellFormed = false

theorem regGet_noRegister (h : k.NoRegister idx) (s : State) :
    regGet k idx s = .error (.malformedTable (.register idx)) := by
  obtain hd | ⟨d, hd, hw⟩ := h
  · simp [regGet, hd]
  · simp [regGet, hd, hw]

theorem regSet_noRegister (h : k.NoRegister idx) (v : Val) (s : State) :
    regSet k idx v s = .error (.malformedTable (.register idx)) := by
  obtain hd | ⟨d, hd, hw⟩ := h
  · simp [regSet, hd]
  · simp [regSet, hd, hw]

theorem statusCell_absent (h : k.cfg.registers[k.cfg.statusReg]? = none) :
    statusCell k = .error (.malformedTable (.register k.cfg.statusReg)) := by
  simp [statusCell, h]

end

/-- The indexes REF has no descriptor for (R28). -/
theorem refRegisters_eq_none_iff (idx : Nat) : ref.cfg.registers[idx]? = none ↔ 13 ≤ idx :=
  List.getElem?_eq_none_iff

theorem refRegisters_wellFormed : ∀ d ∈ ref.cfg.registers, d.WellFormed = true := by decide

/-- Settles O25: get and set look the descriptor up first, the flags and the bank select ask `statusCell` first. -/
theorem absentRegister : Obligations.AbsentRegister := by
  unfold Obligations.AbsentRegister
  refine ⟨fun k idx v s h => ⟨regGet_noRegister h s, regSet_noRegister h v s⟩, fun k f w d base s h => ?_,
    refRegisters_eq_none_iff, refRegisters_wellFormed⟩
  have herr := statusCell_absent h
  exact ⟨by rw [readFlag, herr, except_error_bind], by rw [setFlags, herr, except_error_bind],
    fun hbanked => by rw [directAddress, if_pos hbanked, herr, except_error_bind]⟩

end Sys2Proof.Machine
end

section
/-! PROOFS. Fetch (R85, R190): the decoder over any buffer, some of whose bytes may be `UNDEF`, and the step it leads to. -/

namespace Sys2Proof

section
variable {buf : Buffer} {off cur k n : Nat} {va : Word} {b : Byte} {bad : DecodeError} {bs cs : List Byte} {d : OpDesc}
  {ds : List OpDesc} {o : Operand} {ops : List Operand}

/-! ## Bytes held by a buffer -/

/-- The buffer holds these bytes from an offset on. -/
def Buffer.Holds (buf : Buffer) (at_ : Nat) (bs : List Byte) : Prop :=
  ∀ j (hj : j < bs.length), buf.cell (at_ + j) = some bs[j]

theorem holds_cons {at_ : Nat} : buf.Holds at_ (b :: bs) ↔ buf.cell at_ = some b ∧ buf.Holds (at_ + 1) bs := by
  constructor
  · intro h
    refine ⟨h 0 (Nat.succ_pos _), fun j hj => ?_⟩
    rw [Nat.add_assoc, Nat.add_comm 1]
    exact h (j + 1) (Nat.succ_lt_succ hj)
  · rintro ⟨hb, hbs⟩ j hj
    cases j with
    | zero => exact hb
    | succ j =>
      rw [← Nat.add_assoc, Nat.add_right_comm]
      exact hbs j (Nat.lt_of_succ_lt_succ hj)

theorem holds_append {at_ : Nat} : buf.Holds at_ (bs ++ cs) ↔ buf.Holds at_ bs ∧ buf.Holds (at_ + bs.length) cs := by
  induction bs generalizing at_ with
  | nil => simp [Buffer.Holds]
  | cons b bs ih => rw [List.cons_append, holds_cons, holds_cons, ih, and_assoc, List.length_cons, Nat.add_assoc,
      Nat.add_comm 1]

/-- Bytes held are read (R136). -/
theorem readBytes_holds (h : buf.Holds (off + cur) bs) : readBytes buf off cur bs.length = .ok bs := by
  induction bs generalizing cur with
  | nil => rfl
  | cons b bs ih =>
    obtain ⟨hb, hbs⟩ := holds_cons.1 h
    simp only [List.length_cons, readBytes, hb, ih (cur := cur + 1) hbs]

/-- A read that reaches an `UNDEF` byte behind the bytes held ends there (R406). -/
theorem readBytes_undefined (h : buf.Holds (off + cur) bs) (hk : bs.length < k)
    (hcell : buf.cell (off + cur + bs.length) = none) :
    readBytes buf off cur k = .error (.undefinedByte (cur + bs.length)) := by
  induction bs generalizing cur k with
  | nil =>
    cases k with
    | zero => cases hk
    | succ k => simp only [readBytes, show buf.cell (off + cur) = none from hcell]; rfl
  | cons b bs ih =>
    cases k with
    | zero => cases hk
    | succ k =>
      obtain ⟨hb, hbs⟩ := holds_cons.1 h
      have hlen : cur + 1 + bs.length = cur + (b :: bs).length := by rw [List.length_cons]; omega
      simp only [readBytes, hb, ih hbs (Nat.lt_of_succ_lt_succ hk) (by rwa [Nat.add_assoc off, hlen, ← Nat.add_assoc]),
        hlen]

/-! ## Operands -/

/-- What decoded is what the descriptors describe, over any buffer (R134, R138). -/
theorem described_of_decodeOperands (h : decodeOperands refCfg buf off bad ds cur = .ok (ops, n)) :
    ds.mapM OpDesc.sample = some (ops.map Operand.zeroFields) ∧ (∀ o ∈ ops, o.WellFormed = true) ∧
      n = cur + (ops.flatMap Operand.fieldBytes).length := by
  induction ds generalizing cur ops with
  | nil => cases h; exact ⟨rfl, nofun, rfl⟩
  | cons d ds ih =>
    unfold decodeOperands at h
    split at h
    · cases h
    next k hk =>
    split at h
    · cases h
    split at h
    · cases h
    next bs hbs =>
    split at h
    · cases h
    next o ho =>
    split at h
    · cases h
    next os _ hrest =>
    cases h
    obtain ⟨hdesc, hwf, rfl⟩ := build_eq_some_iff.1 ho
    obtain rfl := readBytes_length hbs
    obtain ⟨hss, hwfs, rfl⟩ := ih hrest
    refine ⟨mapM_sample_cons_iff.2 ⟨o, os, rfl, sample_eq_zeroFields_iff.2 ⟨hk, hdesc⟩, hss⟩,
      List.forall_mem_cons.2 ⟨hwf, hwfs⟩, ?_⟩
    rw [List.flatMap_cons, List.length_append, Nat.add_assoc]

/-- An operand whose bytes the buffer holds is decoded, and what the other descriptors end in decides (R134). -/
theorem decodeOperands_cons_holds (ho : d.sample = some o.zeroFields) (hwf : o.WellFormed = true)
    (hheld : buf.Holds (off + cur) o.fieldBytes) (hfit : off + cur + o.fieldBytes.length ≤ buf.size) :
    decodeOperands refCfg buf off bad (d :: ds) cur =
      (decodeOperands refCfg buf off bad ds (cur + o.fieldBytes.length)).map fun r => (o :: r.1, r.2) := by
  obtain ⟨hk, hdesc⟩ := sample_eq_zeroFields_iff.1 ho
  have hbuild : d.build refCfg o.fieldBytes = some o := build_eq_some_iff.2 ⟨hdesc, hwf, rfl⟩
  simp only [decodeOperands, hk, if_neg (Nat.not_lt.2 hfit), readBytes_holds hheld, hbuild]
  cases decodeOperands refCfg buf off bad ds (cur + o.fieldBytes.length) <;> rfl

/-- Operands whose bytes the buffer holds are decoded (R134). -/
theorem decodeOperands_holds (hs : ds.mapM OpDesc.sample = some (ops.map Operand.zeroFields))
    (hwf : ∀ o ∈ ops, o.WellFormed = true) (hheld : buf.Holds (off + cur) (ops.flatMap Operand.fieldBytes))
    (hfit : off + cur + (ops.flatMap Operand.fieldBytes).length ≤ buf.size) :
    decodeOperands refCfg buf off bad ds cur = .ok (ops, cur + (ops.flatMap Operand.fieldBytes).length) := by
  induction ds generalizing cur ops with
  | nil =>
    obtain rfl : ops = [] := by simpa using hs
    rfl
  | cons d ds ih =>
    obtain ⟨o, os, rfl, ho, hos⟩ := mapM_sample_cons_iff.1 hs
    obtain ⟨hwf, hwfs⟩ := List.forall_mem_cons.1 hwf
    rw [List.flatMap_cons, holds_append] at hheld
    rw [List.flatMap_cons, List.length_append] at hfit ⊢
    obtain ⟨hheld, hrest⟩ := hheld
    rw [Nat.add_assoc off] at hrest
    rw [decodeOperands_cons_holds ho hwf hheld (by omega), ih hos hwfs hrest (by omega), Nat.add_assoc]
    rfl

/-- Up to `held` bytes from `off` on, the decoder comes to an operand in which they stop short, and which itself does not
run past `last`; the error it meets there has the property (R134, R136). -/
def StopsShort (buf : Buffer) (off : Nat) (bad : DecodeError) (held last : Nat) (P : DecodeError → Prop) : Prop :=
  ∃ d ds k pos cs, d.bytes = some k ∧ pos + cs.length = held ∧ held < pos + k ∧ pos + k ≤ last ∧
    buf.Holds (off + pos) cs ∧ ∀ e, decodeOperands refCfg buf off bad (d :: ds) pos = .error e → P e

theorem StopsShort.mono {held last : Nat} {P Q : DecodeError → Prop} (h : StopsShort buf off bad held last P)
    (hPQ : ∀ e, P e → Q e) : StopsShort buf off bad held last Q := by
  obtain ⟨d, ds, k, pos, cs, hk, hheld, hlt, hlast, hcs, herr⟩ := h
  exact ⟨d, ds, k, pos, cs, hk, hheld, hlt, hlast, hcs, fun e he => hPQ e (herr e he)⟩

/-- In a buffer with room for the operand, the error is that of the `UNDEF` byte where the bytes stop (R406). -/
theorem StopsShort.undefined {held last : Nat} {P : DecodeError → Prop} (h : StopsShort buf off bad held last P)
    (hfit : off + last ≤ buf.size) (hcell : buf.cell (off + held) = none) : P (.undefinedByte held) := by
  obtain ⟨d, ds, k, pos, cs, hk, rfl, hlt, hlast, hcs, herr⟩ := h
  refine herr _ ?_
  rw [decodeOperands, hk]
  simp only [if_neg (show ¬ buf.size < off + pos + k by omega)]
  rw [readBytes_undefined hcs (by omega) (by rwa [Nat.add_assoc])]

/-- Where the bytes stop at the end of the buffer, the operand is truncated (R136). -/
theorem StopsShort.truncated {held last : Nat} {P : DecodeError → Prop} (h : StopsShort buf off bad held last P)
    (hend : off + held = buf.size) :
    ∃ need pos, P (.truncated need pos) ∧ buf.size < off + pos + need ∧ pos + need ≤ last := by
  obtain ⟨d, ds, k, pos, cs, hk, -, hlt, hlast, -, herr⟩ := h
  have hpast : buf.size < off + pos + k := by omega
  refine ⟨k, pos, herr _ ?_, hpast, hlast⟩
  rw [decodeOperands, hk]
  simp only [if_pos hpast]

/-- Held bytes that are only a part of the operands' bytes stop short in one of the operands (R134). -/
theorem decodeOperands_stopsShort (hs : ds.mapM OpDesc.sample = some (ops.map Operand.zeroFields))
    (hwf : ∀ o ∈ ops, o.WellFormed = true) (hpre : bs <+: ops.flatMap Operand.fieldBytes)
    (hshort : bs.length < (ops.flatMap Operand.fieldBytes).length) (hheld : buf.Holds (off + cur) bs)
    (hfit : off + cur + bs.length ≤ buf.size) :
    StopsShort buf off bad (cur + bs.length) (cur + (ops.flatMap Operand.fieldBytes).length) fun e =>
      decodeOperands refCfg buf off bad ds cur = .error e := by
  induction ds generalizing cur ops bs with
  | nil =>
    obtain rfl : ops = [] := by simpa using hs
    cases hshort
  | cons d ds ih =>
    obtain ⟨o, os, rfl, ho, hos⟩ := mapM_sample_cons_iff.1 hs
    obtain ⟨hwf, hwfs⟩ := List.forall_mem_cons.1 hwf
    obtain ⟨hk, -⟩ := sample_eq_zeroFields_iff.1 ho
    rw [List.flatMap_cons] at hpre
    rw [List.flatMap_cons, List.length_append] at hshort ⊢
    obtain hlt | hle := lt_or_ge bs.length o.fieldBytes.length
    · exact ⟨d, ds, o.fieldBytes.length, cur, bs, hk, rfl, by omega, by omega, hheld, fun _ he => he⟩
    · obtain ⟨bs', rfl⟩ := List.prefix_of_prefix_length_le (List.prefix_append _ _) hpre hle
      rw [List.length_append] at hshort hfit ⊢
      obtain ⟨hheld, hrest⟩ := holds_append.1 hheld
      rw [Nat.add_assoc off] at hrest
      have hstops := ih hos hwfs ((List.prefix_append_right_inj _).1 hpre) (by omega) hrest (by omega)
      rw [Nat.add_assoc, Nat.add_assoc] at hstops
      refine hstops.mono fun e he => ?_
      rw [decodeOperands_cons_holds ho hwf hheld (by omega), he]
      rfl

end

/-! ## Instructions -/

section
variable {buf : Buffer} {off : Nat} {va : Word} {bs : List Byte} {i : Instr}

/-- An `UNDEF` byte where a decode begins (R406). -/
theorem decodeAt_undefined_first (hlt : off < buf.size) (hcell : buf.cell off = none) :
    decodeAt refCfg buf off va = .error (.undefinedByte 0) := by
  simp [decodeAt, walkTables, hcell, Nat.not_le.2 hlt]

/-- What the decoder reads from any buffer is the Opcode of an instruction (R110, R138). -/
theorem exists_instr_of_decodeAt {opc : Opcode} (h : decodeAt refCfg buf off va = .ok opc) :
    ∃ i : Instr, opc = i.opcode va := by
  obtain hle | hlt := le_or_gt buf.size off
  · rw [decodeAt_truncated hle] at h
    cases h
  cases hb : buf.cell off with
  | none =>
    rw [decodeAt_undefined_first hlt hb] at h
    cases h
  | some b =>
    cases hv : (refEntry b).valid with
    | false =>
      rw [decodeAt_invalid hlt hb hv] at h
      cases h
    | true =>
      obtain ⟨ops, n, hops, rfl⟩ := (decodeAt_valid_eq_ok_iff hlt hb hv).1 h
      obtain ⟨hsamples, hwf, rfl⟩ := described_of_decodeOperands hops
      obtain ⟨i, rfl, rfl⟩ := exists_instr_of_valid hv hsamples hwf
      refine ⟨i, ?_⟩
      rw [← opcode_refEntry, Instr.length, encode, List.length_cons, Nat.add_comm]

/-- The first byte of an instruction has a valid entry (R110). -/
theorem refEntry_opcodeByte_valid (i : Instr) : (refEntry i.opcodeByte).valid = true := by
  obtain ⟨-, ⟨hv, -⟩, -⟩ := rowOf_opcodeByte i
  exact hv

/-- Where a buffer holds the encoding of a well-formed instruction, the decoder reads that instruction (R122). -/
theorem decodeAt_holds (hwf : i.WellFormed = true) (hheld : buf.Holds off (encode i)) (hfit : off + i.length ≤ buf.size) :
    decodeAt refCfg buf off va = .ok (i.opcode va) := by
  obtain ⟨hb, hfields⟩ := holds_cons.1 hheld
  have hlen : i.length = (i.operands.flatMap Operand.fieldBytes).length + 1 := rfl
  have hops := decodeOperands_holds (cur := 1) (bad := .malformed none i.opcodeByte) (refRom_opcodeByte i).2
    ((wellFormed_iff_operands i).1 hwf) hfields (by omega)
  refine (decodeAt_valid_eq_ok_iff (by omega) hb (refEntry_opcodeByte_valid i)).2 ⟨_, _, hops, ?_⟩
  rw [← opcode_refEntry, hlen, Nat.add_comm]

/-- An encoding held behind its first byte only in part stops short in one of its operands (R134). -/
theorem decodeAt_stopsShort (hwf : i.WellFormed = true) (hpre : i.opcodeByte :: bs <+: encode i)
    (hshort : bs.length + 1 < i.length) (hheld : buf.Holds off (i.opcodeByte :: bs))
    (hfit : off + (bs.length + 1) ≤ buf.size) :
    StopsShort buf off (.malformed none i.opcodeByte) (bs.length + 1) i.length fun e =>
      decodeAt refCfg buf off va = .error e := by
  obtain ⟨hb, hfields⟩ := holds_cons.1 hheld
  have hlen : i.length = (i.operands.flatMap Operand.fieldBytes).length + 1 := rfl
  obtain ⟨-, hpre⟩ := List.cons_prefix_cons.1 hpre
  have hstops := decodeOperands_stopsShort (cur := 1) (bad := .malformed none i.opcodeByte) (refRom_opcodeByte i).2
    ((wellFormed_iff_operands i).1 hwf) hpre (by omega) hfields (by omega)
  rw [Nat.add_comm 1, Nat.add_comm 1, ← hlen] at hstops
  exact hstops.mono fun e he => decodeAt_valid_eq_error (by omega) hb (refEntry_opcodeByte_valid i) he

/-- An `UNDEF` byte inside an instruction that fits the buffer ends the decode there (R406). -/
theorem decodeAt_undefined (hwf : i.WellFormed = true) (hpre : bs <+: encode i) (hshort : bs.length < i.length)
    (hheld : buf.Holds off bs) (hfit : off + i.length ≤ buf.size) (hcell : buf.cell (off + bs.length) = none) :
    decodeAt refCfg buf off va = .error (.undefinedByte bs.length) := by
  cases bs with
  | nil => exact decodeAt_undefined_first (by omega) hcell
  | cons b bs =>
    obtain ⟨rfl, -⟩ := List.cons_prefix_cons.1 hpre
    rw [List.length_cons] at hshort hcell ⊢
    exact (decodeAt_stopsShort hwf hpre hshort hheld (by omega)).undefined hfit hcell

/-- An instruction that runs past the end of the buffer is truncated there (R136, R402). -/
theorem decodeAt_past_end (hwf : i.WellFormed = true) (hpre : bs <+: encode i) (hshort : bs.length < i.length)
    (hheld : buf.Holds off bs) (hend : off + bs.length = buf.size) :
    ∃ need pos, decodeAt refCfg buf off va = .error (.truncated need pos) ∧ buf.size < off + pos + need ∧
      pos + need ≤ i.length := by
  cases bs with
  | nil =>
    rw [List.length_nil] at hend hshort
    exact ⟨1, 0, decodeAt_truncated (by omega), by omega, by omega⟩
  | cons b bs =>
    obtain ⟨rfl, -⟩ := List.cons_prefix_cons.1 hpre
    rw [List.length_cons] at hshort hend
    exact (decodeAt_stopsShort hwf hpre hshort hheld (by omega)).truncated hend

end

end Sys2Proof

namespace Sys2Proof.Machine

/-! ## The fetch of REF -/

section
variable {s : State} {va : Word}

/-- The CODE window of REF as a buffer (R24, R85). -/
abbrev refCode (s : State) : Buffer := codeBuffer ⟨.code, 0x0000, 0x10000, 0x10100⟩ s

theorem refCode_cell (s : State) (j : Nat) : (refCode s).cell j = s.store.read (0x10100 + j) := by
  change s.store.read (0 + j + 0x10100) = _
  rw [Nat.zero_add, Nat.add_comm]

theorem fetchOpcode_undef (hpc : s.pc = none) : fetchOpcode ref s = .error (.undefinedFetch none) := by
  have hget : regGet ref ref.cfg.pcReg s = .ok (Val.ofWord s.pc) := regGet_pc s
  simp only [fetchOpcode, hget, valWord_ofWord, hpc]

/-- At a defined PC the fetch is a decode in the CODE window (R190). -/
theorem fetchOpcode_ref (hpc : s.pc = some va) :
    fetchOpcode ref s = (decodeAt refCfg (refCode s) va.toNat va).mapError (decodeFault va) := by
  have hget : regGet ref ref.cfg.pcReg s = .ok (Val.ofWord s.pc) := regGet_pc s
  simp only [fetchOpcode, hget, valWord_ofWord, hpc, fetchAt, SegTag.segName, resolve_code, Nat.not_lt_zero, if_false,
    Nat.sub_zero]
  change (match decodeAt refCfg (refCode s) va.toNat va with | .error e => _ | .ok opc => _) = _
  cases decodeAt refCfg (refCode s) va.toNat va <;> rfl

/-- Every Opcode a step of REF executes is that of an instruction at PC (R110, R190). -/
theorem exists_instr_of_fetch {opc : Opcode} (h : fetchOpcode ref s = .ok opc) :
    ∃ (i : Instr) (va : Word), s.pc = some va ∧ opc = i.opcode va := by
  cases hpc : s.pc with
  | none =>
    rw [fetchOpcode_undef hpc] at h
    cases h
  | some va =>
    rw [fetchOpcode_ref hpc] at h
    cases hdecode : decodeAt refCfg (refCode s) va.toNat va with
    | error e =>
      rw [hdecode] at h
      cases h
    | ok opc' =>
      rw [hdecode] at h
      cases h
      obtain ⟨i, hi⟩ := exists_instr_of_decodeAt hdecode
      exact ⟨i, va, rfl, hi⟩

/-! ## The step it leads to -/

theorem step_of_fetch_error {f : Fault} (h : fetchOpcode ref s = .error f) : step s = .fault f := by
  rw [step, h]

theorem step_of_decode_error {e : DecodeError} (hpc : s.pc = some va)
    (h : decodeAt refCfg (refCode s) va.toNat va = .error e) : step s = .fault (decodeFault va e) :=
  step_of_fetch_error (by rw [fetchOpcode_ref hpc, h]; rfl)

theorem step_of_decode {i : Instr} (hpc : s.pc = some va)
    (h : decodeAt refCfg (refCode s) va.toNat va = .ok (i.opcode va)) : step s = exec i s := by
  simp only [step, fetchOpcode_ref hpc, h, Except.mapError, ofOpcode_opcode]

/-- Code cells read alike with a list of bytes are those bytes in the window's buffer. -/
theorem refCode_holds {bs : List Byte} {n : Nat} (hn : n ≤ bs.length)
    (h : ∀ j, j < n → s.store.read (0x10100 + va.toNat + j) = bs[j]?) : (refCode s).Holds va.toNat (bs.take n) := by
  intro j hj
  rw [List.length_take_of_le hn] at hj
  rw [refCode_cell, ← Nat.add_assoc, h j hj, List.getElem_take, List.getElem?_eq_getElem]

/-- Settles O7: the decoder reads the instruction and the step is its meaning. -/
theorem stepRunsDecoded : Obligations.StepRunsDecoded := by
  unfold Obligations.StepRunsDecoded
  intro i s va hwf hpc hfit hcells
  have hheld := refCode_holds (n := i.length) le_rfl hcells
  have hall : (encode i).take i.length = encode i := List.take_length
  exact step_of_decode hpc (decodeAt_holds hwf (hall ▸ hheld) hfit)

/-- The dispatch of an instruction's Opcode is by its iid, as its form's is (R192). -/
theorem exec_eq_execute {i : Instr} (hpc : s.pc = some va) : exec i s = settle (execute ref (i.opcode va) s) := by
  have hiid : Iid.ofNum (i.opcode va).iid = some i.iid := ofNum_num i.iid
  rw [exec_runHandler, runForm, hpc, execute, hiid]
  rfl

/-- Settles O8: the iid of the Opcode leads to the handler of the form. -/
theorem execIsExecute : Obligations.ExecIsExecute := by
  unfold Obligations.ExecIsExecute
  exact fun _ _ _ => exec_eq_execute

/-- Settles O9: what a fetch gives is the Opcode of an instruction at PC, for which the two dispatches agree. -/
theorem stepIsFetchThenExecute : Obligations.StepIsFetchThenExecute := by
  unfold Obligations.StepIsFetchThenExecute
  intro s
  cases hfetch : fetchOpcode ref s with
  | error f => rw [step_of_fetch_error hfetch, stepBlock, hfetch, settle_error]
  | ok opc =>
    obtain ⟨i, va, hpc, rfl⟩ := exists_instr_of_fetch hfetch
    simp only [step, stepBlock, hfetch, ofOpcode_opcode]
    exact exec_eq_execute hpc

/-! ## The ways a fetch ends a step -/

/-- An `UNDEF` code cell at PC (R406). -/
theorem step_undefinedCell (hpc : s.pc = some va) (hcell : s.store.read (0x10100 + va.toNat) = none) :
    step s = .fault (.undefinedFetch (some va)) := by
  rw [step_of_decode_error hpc (decodeAt_undefined_first va.isLt (by rw [refCode_cell, hcell])), decodeFault]
  have hva : va + BitVec.ofNat 16 0 = va := BitVec.add_zero va
  rw [hva]

/-- A byte with an empty entry at PC (R113, R401). -/
theorem step_invalid {b : Byte} (hpc : s.pc = some va) (hcell : s.store.read (0x10100 + va.toNat) = some b)
    (hb : (refEntry b).valid = false) : step s = .fault (.invalidInstruction b (some va)) :=
  step_of_decode_error hpc (decodeAt_invalid va.isLt (by rw [refCode_cell, hcell]) hb)

/-- Settles O11: by where the decode stops. -/
theorem stepFetchErrors : Obligations.StepFetchErrors := by
  unfold Obligations.StepFetchErrors
  refine ⟨fun s hpc => step_of_fetch_error (fetchOpcode_undef hpc), fun s va hpc => ⟨step_undefinedCell hpc,
    fun b hcell hb => step_invalid hpc hcell ((refEntry_valid_eq_false_iff b).2 hb)⟩,
    fun i s va hwf hpc => ⟨fun j hj hfit hcells hcell => ?_, fun hpast hcells => ?_⟩⟩
  · have hlen : ((encode i).take j).length = j := List.length_take_of_le hj.le
    have hdecode := decodeAt_undefined (va := va) hwf (List.take_prefix j _) (by rwa [hlen])
      (refCode_holds hj.le hcells) hfit (by rw [hlen, refCode_cell, ← Nat.add_assoc, hcell])
    rw [step_of_decode_error hpc hdecode, hlen, decodeFault]
  · have hva := va.isLt
    have hn : 0x10000 - va.toNat < i.length := by omega
    have hlen : ((encode i).take (0x10000 - va.toNat)).length = 0x10000 - va.toNat := List.length_take_of_le hn.le
    have hsize : (refCode s).size = 0x10000 := rfl
    obtain ⟨need, pos, hdecode, hrun, hin⟩ := decodeAt_past_end (va := va) hwf (List.take_prefix (0x10000 - va.toNat) _)
      (by rwa [hlen]) (refCode_holds hn.le fun m hm => hcells m (by omega)) (by rw [hlen, hsize]; omega)
    exact ⟨need, pos, step_of_decode_error hpc hdecode, hrun, hin⟩

end

end Sys2Proof.Machine
end

section
/-! PROOFS. Execution does not read PC (R191): every shared operation of REF reads the same in states that differ in PC only,
and carries what it writes over from one to the other. -/

namespace Sys2Proof.Machine

/-! ## Computations that do not read PC -/

/-- The state with another program counter. -/
abbrev State.withPc (q : Option Word) (s : State) : State := { s with pc := q }

/-- What a handler ended in, at another program counter. -/
abbrev resultWithPc (q : Option Word) (r : State × Flow) : State × Flow := (r.1.withPc q, r.2)

/-- What a pop gave, at another program counter. -/
abbrev poppedWithPc {α : Type} (q : Option Word) (r : α × State) : α × State := (r.1, r.2.withPc q)

/-- The computation gives the same answer whatever PC is. -/
def IgnoresPc {α : Type} (f : State → α) : Prop := ∀ (q : Option Word) (s : State), f (s.withPc q) = f s

/-- The computation does the same whatever PC is: its result in a state with another PC is its result in the state, at
that PC. -/
def CarriesPc {α : Type} (move : Option Word → α → α) (f : State → Except Fault α) : Prop :=
  ∀ (q : Option Word) (s : State), f (s.withPc q) = (f s).map (move q)

namespace CarriesPc

variable {α β : Type} {moveA : Option Word → α → α} {moveB : Option Word → β → β}

theorem error (e : Fault) : CarriesPc moveA fun _ => .error e := fun _ _ => rfl

theorem goto (t : Option Word) : CarriesPc resultWithPc fun s => .ok (s, .goto t) := fun _ _ => rfl

theorem next : CarriesPc resultWithPc fun s => .ok (s, .next) := fun _ _ => rfl

/-- After a read that ignores PC comes a computation that carries it. -/
theorem read {f : State → Except Fault β} {g : β → State → Except Fault α} (hf : IgnoresPc f)
    (hg : ∀ b, CarriesPc moveA (g b)) : CarriesPc moveA fun s => f s >>= fun b => g b s := by
  intro q s
  change (f (s.withPc q) >>= fun b => g b (s.withPc q)) = (f s >>= fun b => g b s).map (moveA q)
  rw [hf q s]
  cases f s with
  | error e => rfl
  | ok b => exact hg b q s

/-- One computation that carries PC after another. -/
theorem bind {f : State → Except Fault β} {g : β → Except Fault α} (hf : CarriesPc moveB f)
    (hg : ∀ q b, g (moveB q b) = (g b).map (moveA q)) : CarriesPc moveA fun s => f s >>= g := by
  intro q s
  change f (s.withPc q) >>= g = (f s >>= g).map (moveA q)
  rw [hf q s]
  cases f s with
  | error e => rfl
  | ok b => exact hg q b

theorem seq {f : State → Except Fault State} {g : State → Except Fault α} (hf : CarriesPc State.withPc f)
    (hg : CarriesPc moveA g) : CarriesPc moveA fun s => f s >>= g := hf.bind hg

theorem fall {f : State → Except Fault State} (hf : CarriesPc State.withPc f) :
    CarriesPc resultWithPc fun s => Machine.fall (f s) := by
  intro q s
  change Machine.fall (f (s.withPc q)) = (Machine.fall (f s)).map (resultWithPc q)
  rw [hf q s]
  cases f s <;> rfl

end CarriesPc

/-! ## The shared operations of REF -/

theorem memWrite_carriesPc (n : SegName) (a : Nat) (v : Cell) : CarriesPc State.withPc (memWrite ref n a v) := by
  intro q s
  unfold memWrite
  cases locate ref n a <;> rfl

theorem memWriteBit_carriesPc (n : SegName) (a b : Nat) (v : Option Bool) :
    CarriesPc State.withPc (memWriteBit ref n a b v) := by
  intro q s
  unfold memWriteBit
  cases locate ref n a with
  | error e => rfl
  | ok p =>
    cases v with
    | none => rfl
    | some v => cases h : s.store.read p <;> simp [putBit, h, Except.map]

/-- A register other than PC (R176). -/
theorem regGet_ignoresPc {idx : Nat} (h : idx ≠ 12) : IgnoresPc (regGet ref idx) := by
  have hpc : idx ≠ ref.cfg.pcReg := h
  intro q s
  cases hd : ref.cfg.registers[idx]? with
  | none => rw [regGet_noRegister (.inl hd), regGet_noRegister (.inl hd)]
  | some d =>
    have hw : d.WellFormed = true := refRegisters_wellFormed d (List.mem_of_getElem? hd)
    rw [regGet_default hd hw (.inr rfl), regGet_default hd hw (.inr rfl)]
    unfold regGetDefault
    cases d.storage with
    | direct | split => rfl
    | computed => simp only [if_neg hpc]

theorem writeRegBytes_carriesPc (cells : List (Nat × Cell)) : CarriesPc State.withPc (writeRegBytes ref cells) := by
  induction cells with
  | nil => exact fun _ _ => rfl
  | cons x cells ih => exact (memWrite_carriesPc _ x.1 x.2).seq ih

theorem regSetDefault_carriesPc {idx : Nat} (h : idx ≠ 12) (d : RegDesc) (v : Val) :
    CarriesPc State.withPc (regSetDefault ref idx d v) := by
  have hpc : idx ≠ ref.cfg.pcReg := h
  intro q s
  unfold regSetDefault
  cases d.storage with
  | computed => simp only [if_neg hpc]; rfl
  | direct base =>
    cases disassemble d.widthBytes v with
    | none => rfl
    | some cs =>
      simp only [directAddress_ref, except_ok_bind]
      have haddr : rnAddr base (s.withPc q) = rnAddr base s := rfl
      rw [haddr]
      cases (if d.banked then rnAddr base s else some base) with
      | none => rfl
      | some a => exact writeRegBytes_carriesPc _ q s
  | split addrs msbFirst =>
    cases disassemble d.widthBytes v with
    | none => rfl
    | some cs => exact writeRegBytes_carriesPc _ q s

theorem regSet_carriesPc {idx : Nat} (h : idx ≠ 12) (v : Val) : CarriesPc State.withPc (regSet ref idx v) := by
  intro q s
  cases hd : ref.cfg.registers[idx]? with
  | none => rw [regSet_noRegister (.inl hd), regSet_noRegister (.inl hd)]; rfl
  | some d =>
    have hw : d.WellFormed = true := refRegisters_wellFormed d (List.mem_of_getElem? hd)
    rw [regSet_wellFormed hd hw, regSet_wellFormed hd hw]
    exact regSetDefault_carriesPc h d v q s

theorem pointer_ignoresPc {idx : Nat} (h : idx ≠ 12) : IgnoresPc (pointer ref idx) := by
  intro q s
  rw [pointer, regGet_ignoresPc h q s, pointer]

/-- The base PC of an indexed operand is the next instruction's address, not the register (R155). -/
theorem indexedAddress_ignoresPc (x : Ctx) (idx : Nat) : IgnoresPc (indexedAddress ref x idx) := by
  intro q s
  unfold indexedAddress
  rw [regGet_ignoresPc (show ref.cfg.accReg ≠ 12 by decide) q s]
  by_cases h : idx = ref.cfg.pcReg
  · simp only [if_pos h]
  · simp only [if_neg h, pointer_ignoresPc h q s]

theorem getAt_ignoresPc (x : Ctx) (kind : AccessKind) (a : Option Word) : IgnoresPc (getAt ref x kind a) := by
  intro q s
  cases a <;> rfl

theorem setAt_carriesPc (x : Ctx) (pos : Nat) (kind : AccessKind) (a : Option Word) (v : Val) :
    CarriesPc State.withPc (setAt ref x pos kind a v) := by
  cases a with
  | none => exact .error _
  | some a => exact memWrite_carriesPc _ _ _

/-! ## Operands -/

/-- The operand names PC neither as a register nor as a pointer; an index on PC does not read the register (R155). -/
def AvoidsPc (op : Operand) : Prop := op ≠ .reg 12 ∧ op ≠ .ind 12

section
variable {op op0 op1 op2 : Operand}

theorem getOp_ignoresPc (h : AvoidsPc op) (x : Ctx) : IgnoresPc (getOp ref x op) := by
  obtain ⟨hreg, hind⟩ := h
  intro q s
  cases op with
  | reg idx => exact regGet_ignoresPc (fun h => hreg (h ▸ rfl)) q s
  | ind idx =>
    simp only [getOp, pointer_ignoresPc (fun h => hind (h ▸ rfl)) q s, getAt_ignoresPc x _ _ q s]
  | idx idx => simp only [getOp, indexedAddress_ignoresPc x idx q s, getAt_ignoresPc x _ _ q s]
  | dir a => exact getAt_ignoresPc x .direct (some (a.zeroExtend 16)) q s
  | imm8 | imm16 | bit | rel | abs => rfl

theorem addrOp_ignoresPc (h : AvoidsPc op) (x : Ctx) (pos : Nat) : IgnoresPc (addrOp ref x pos op) := by
  obtain ⟨-, hind⟩ := h
  intro q s
  cases op with
  | ind idx => exact pointer_ignoresPc (fun h => hind (h ▸ rfl)) q s
  | idx idx => exact indexedAddress_ignoresPc x idx q s
  | reg | dir | imm8 | imm16 | bit | rel | abs => rfl

theorem setOp_carriesPc (h : AvoidsPc op) (x : Ctx) (pos : Nat) (v : Val) :
    CarriesPc State.withPc (setOp ref x pos op v) := by
  obtain ⟨hreg, hind⟩ := h
  cases op with
  | reg idx => exact regSet_carriesPc (fun h => hreg (h ▸ rfl)) v
  | dir a => exact setAt_carriesPc x pos .direct (some (a.zeroExtend 16)) v
  | ind idx => exact .read (pointer_ignoresPc fun h => hind (h ▸ rfl)) fun p => setAt_carriesPc x pos _ p v
  | bit base b neg =>
    cases neg with
    | false => exact memWriteBit_carriesPc _ _ _ _
    | true => exact .error _
  | imm8 | imm16 | rel | abs | idx => exact .error _

/-! ## Stack and flags -/

theorem push_carriesPc (v : Cell) : CarriesPc State.withPc (push ref v) := by
  intro q s
  have hsp : stackPtr (s.withPc q) = stackPtr s := rfl
  rw [push_ref, push_ref, hsp]
  cases stackPtr s <;> rfl

theorem popped_withPc (q : Option Word) (s : State) : popped (s.withPc q) = poppedWithPc q (popped s) := by
  have hsp : stackPtr (s.withPc q) = stackPtr s := rfl
  rw [popped, popped, hsp]
  cases stackPtr s <;> rfl

theorem pop_carriesPc : CarriesPc poppedWithPc (pop ref) := by
  intro q s
  rw [pop_ref, pop_ref, popped_withPc]
  rfl

theorem popReturn_carriesPc : CarriesPc poppedWithPc (popReturn ref) := by
  intro q s
  simp only [popReturn_ref, popped_withPc]
  cases (popped s).1 <;> cases (popped (popped s).2).1 <;> rfl

theorem pushReturn_carriesPc (ra : Word) : CarriesPc State.withPc (pushReturn ref ra) :=
  (push_carriesPc _).seq (push_carriesPc _)

theorem readFlag_ignoresPc (f : Flag) : IgnoresPc (readFlag ref f) := fun _ _ => rfl

theorem setFlags_carriesPc (w : FlagWrite) : CarriesPc State.withPc (setFlags ref w) := by
  intro q s
  rw [setFlags_ref, setFlags_ref]
  rfl

theorem writeCarry_carriesPc (c : Option Bool) : CarriesPc State.withPc (writeCarry ref c) :=
  .read (regGet_ignoresPc (by decide)) fun _ => setFlags_carriesPc _

theorem storeResult_carriesPc (h : AvoidsPc op) (x : Ctx) (r : Val × FlagWrite) :
    CarriesPc resultWithPc (storeResult ref x op r) :=
  (setOp_carriesPc h x 0 r.1).seq (setFlags_carriesPc r.2).fall

theorem jumpTo_carriesPc (h : AvoidsPc op) (x : Ctx) : CarriesPc resultWithPc (jumpTo ref x op) :=
  .read (getOp_ignoresPc h x) fun _ => .goto _

theorem branch_carriesPc (h : AvoidsPc op) (x : Ctx) (c : Option Bool) :
    CarriesPc resultWithPc (branch ref x c op) := by
  cases c with
  | none => exact .goto none
  | some b =>
    cases b with
    | true => exact jumpTo_carriesPc h x
    | false => exact .next

end

/-! ## The handlers and the transaction -/

section
variable {ops : List Operand}

theorem with1_carriesPc (h : ∀ op ∈ ops, AvoidsPc op) {f : Operand → State → Handled}
    (hf : ∀ {op0}, AvoidsPc op0 → CarriesPc resultWithPc (f op0)) : CarriesPc resultWithPc (with1 ops f) := by
  match ops, h with
  | [], _ => exact .error _
  | op0 :: _, h => exact hf (h op0 (.head _))

theorem with2_carriesPc (h : ∀ op ∈ ops, AvoidsPc op) {f : Operand → Operand → State → Handled}
    (hf : ∀ {op0 op1}, AvoidsPc op0 → AvoidsPc op1 → CarriesPc resultWithPc (f op0 op1)) :
    CarriesPc resultWithPc (with2 ops f) := by
  match ops, h with
  | [], _ => exact .error _
  | [_], _ => exact .error _
  | op0 :: op1 :: _, h => exact hf (h op0 (.head _)) (h op1 (.tail _ (.head _)))

theorem with3_carriesPc (h : ∀ op ∈ ops, AvoidsPc op) {f : Operand → Operand → Operand → State → Handled}
    (hf : ∀ {op0 op1 op2}, AvoidsPc op0 → AvoidsPc op1 → AvoidsPc op2 →
      CarriesPc resultWithPc (f op0 op1 op2)) : CarriesPc resultWithPc (with3 ops f) := by
  match ops, h with
  | [], _ => exact .error _
  | [_], _ => exact .error _
  | [_, _], _ => exact .error _
  | op0 :: op1 :: op2 :: _, h => exact hf (h op0 (.head _)) (h op1 (.tail _ (.head _))) (h op2 (.tail _ (.tail _ (.head _))))

/-- Every handler of REF does the same whatever PC is (R191). -/
theorem runHandler_carriesPc (x : Ctx) (h : Iid) (hops : ∀ op ∈ ops, AvoidsPc op) :
    CarriesPc resultWithPc (runHandler ref x h ops) := by
  cases h with
  | nop => exact .next
  | mov | movx | movc =>
    exact with2_carriesPc hops fun h0 h1 => .read (getOp_ignoresPc h1 x) fun v => (setOp_carriesPc h0 x 0 v).fall
  | push => exact with1_carriesPc hops fun h0 => .read (getOp_ignoresPc h0 x) fun v => (push_carriesPc (valCell v)).fall
  | pop =>
    exact with1_carriesPc hops fun h0 => pop_carriesPc.bind fun q r =>
      (setOp_carriesPc h0 x 0 (Val.ofCell r.1)).fall q r.2
  | xch =>
    exact with2_carriesPc hops fun h0 h1 => .read (getOp_ignoresPc h0 x) fun a => .read (getOp_ignoresPc h1 x) fun b =>
      (setOp_carriesPc h0 x 0 b).seq (setOp_carriesPc h1 x 1 a).fall
  | add | anl | orl | xrl =>
    exact with2_carriesPc hops fun h0 h1 => .read (getOp_ignoresPc h0 x) fun a => .read (getOp_ignoresPc h1 x) fun b =>
      storeResult_carriesPc h0 x _
  | addc | subb =>
    exact with2_carriesPc hops fun h0 h1 => .read (getOp_ignoresPc h0 x) fun a => .read (getOp_ignoresPc h1 x) fun b =>
      .read (readFlag_ignoresPc .c) fun c => storeResult_carriesPc h0 x _
  | inc | dec | cplB =>
    exact with1_carriesPc hops fun h0 => .read (getOp_ignoresPc h0 x) fun v => (setOp_carriesPc h0 x 0 _).fall
  | clrA => exact with1_carriesPc hops fun h0 => storeResult_carriesPc h0 x _
  | cplA =>
    exact with1_carriesPc hops fun h0 => .read (getOp_ignoresPc h0 x) fun a => storeResult_carriesPc h0 x _
  | clrC | setbC => exact (writeCarry_carriesPc _).fall
  | cplC => exact .read (readFlag_ignoresPc .c) fun c => (writeCarry_carriesPc (aluBnot c)).fall
  | clrB | setbB => exact with1_carriesPc hops fun h0 => (setOp_carriesPc h0 x 0 _).fall
  | movCB =>
    exact with1_carriesPc hops fun h0 => .read (getOp_ignoresPc h0 x) fun b => (writeCarry_carriesPc (valBit b)).fall
  | movBC =>
    exact with1_carriesPc hops fun h0 => .read (readFlag_ignoresPc .c) fun c => (setOp_carriesPc h0 x 0 _).fall
  | anlC | orlC =>
    exact with1_carriesPc hops fun h0 => .read (readFlag_ignoresPc .c) fun c => .read (getOp_ignoresPc h0 x) fun b =>
      (writeCarry_carriesPc _).fall
  | ljmp | sjmp => exact with1_carriesPc hops fun h0 => jumpTo_carriesPc h0 x
  | jmpi => exact with1_carriesPc hops fun h0 => .read (addrOp_ignoresPc h0 x 0) fun t => .goto t
  | lcall =>
    exact with1_carriesPc hops fun h0 => .read (getOp_ignoresPc h0 x) fun t =>
      (pushReturn_carriesPc x.next).seq (.goto (valWord t))
  | ret => exact popReturn_carriesPc.bind fun _ _ => rfl
  | jc | jnc => exact with1_carriesPc hops fun h0 => .read (readFlag_ignoresPc .c) fun c => branch_carriesPc h0 x _
  | jz | jnz =>
    exact with1_carriesPc hops fun h0 => .read (regGet_ignoresPc (by decide)) fun a => branch_carriesPc h0 x _
  | jb | jnb =>
    exact with2_carriesPc hops fun h0 h1 => .read (getOp_ignoresPc h0 x) fun b => branch_carriesPc h1 x _
  | cjne =>
    exact with3_carriesPc hops fun h0 h1 h2 => .read (getOp_ignoresPc h0 x) fun a => .read (getOp_ignoresPc h1 x) fun b =>
      (writeCarry_carriesPc _).seq (branch_carriesPc h2 x _)
  | djnz =>
    exact with2_carriesPc hops fun h0 h1 => .read (getOp_ignoresPc h0 x) fun v =>
      (setOp_carriesPc h0 x 0 _).seq (branch_carriesPc h1 x _)

end

/-- The operands of the REF forms never name PC, but as the base of an index (R110). -/
theorem operands_avoidPc (i : Instr) : ∀ op ∈ i.operands, AvoidsPc op := by
  have hworking : ∀ n : Fin 8, n.val ≠ 12 := fun n => by omega
  have hpointer : ∀ j : Fin 2, j.val ≠ 12 := fun j => by omega
  cases i <;> simp [Instr.operands, Operand.ofBitaddr, AvoidsPc, hworking, hpointer]

/-- The write of the program counter after a handler that carries PC leaves no trace of the PC before it (R193). -/
theorem transact_ignoresPc (x : Ctx) {f : Ctx → State → Handled} (hf : CarriesPc resultWithPc (f x)) :
    IgnoresPc (transact ref x f) := by
  intro q s
  rw [transact, transact, hf q s]
  cases f x s with
  | error e => rfl
  | ok r =>
    obtain ⟨t, fl⟩ := r
    cases fl <;> simp [Except.map, finish]

/-- Settles O10: the handler carries PC, and the transaction overwrites it. -/
theorem executeIgnoresPc : Obligations.ExecuteIgnoresPc := by
  unfold Obligations.ExecuteIgnoresPc
  intro i va s q
  have hiid : Iid.ofNum (i.opcode va).iid = some i.iid := ofNum_num i.iid
  rw [execute, execute, hiid]
  exact transact_ignoresPc _ (f := fun x => runHandler ref x i.iid i.operands)
    (runHandler_carriesPc _ i.iid (operands_avoidPc i)) q s

end Sys2Proof.Machine
end

section
/-! PROOFS. The ALU on defined and undefined inputs (R196 to R209). -/

namespace Sys2Proof.Machine

/-! ## ADD and SUB bit by bit -/

theorem toNat_ofBool_zeroExtend (c : Bool) {w : Nat} (hw : 1 ≤ w) :
    ((BitVec.ofBool c).zeroExtend w).toNat = c.toNat :=
  (BitVec.toNat_setWidth_of_le hw).trans (BitVec.toNat_ofBool c)

/-- A signed byte is its unsigned value, less 256 when its sign bit is set. -/
theorem toInt_byte (a : Byte) : a.toInt = a.toNat - if a.msb then 256 else 0 := by
  rw [BitVec.toInt_eq_msb_cond]
  split <;> simp

theorem msb_byte (a : Byte) : a.msb = decide (128 ≤ a.toNat) := BitVec.msb_eq_decide a

/-- The nine-bit sum of two bytes and a carry does not wrap (R196). -/
theorem toNat_sum9 (a b : Byte) (c : Bool) :
    (a.zeroExtend 9 + b.zeroExtend 9 + (BitVec.ofBool c).zeroExtend 9).toNat = a.toNat + b.toNat + c.toNat := by
  have ha := a.isLt
  have hb := b.isLt
  have hc := c.toNat_le
  simp only [BitVec.toNat_add, toNat_ofBool_zeroExtend c (w := 9) (by decide), BitVec.toNat_setWidth]
  omega

/-- Neither does the five-bit sum of their low nibbles (R196). -/
theorem toNat_sum5 (a b : Byte) (c : Bool) :
    ((a.extractLsb' 0 4).zeroExtend 5 + (b.extractLsb' 0 4).zeroExtend 5 + (BitVec.ofBool c).zeroExtend 5).toNat =
      a.toNat % 16 + b.toNat % 16 + c.toNat := by
  have hc := c.toNat_le
  simp only [BitVec.toNat_add, toNat_ofBool_zeroExtend c (w := 5) (by decide),
    BitVec.toNat_setWidth, BitVec.extractLsb'_toNat, Nat.shiftRight_zero]
  omega

/-- The top bit of a number below twice its weight says whether the number reaches that weight. -/
theorem getLsbD_top {w : Nat} (x : BitVec (w + 1)) : x.getLsbD w = decide (2 ^ w ≤ x.toNat) := by
  have h := BitVec.msb_eq_decide x
  rwa [BitVec.msb_eq_getLsbD_last] at h

section
variable (a b : Byte) (c : Bool)

theorem toNat_aluAdd_r : (aluAdd 8 a b c).r.toNat = (a.toNat + b.toNat + c.toNat) % 256 := BitVec.toNat_ofNat ..

theorem toNat_aluSub_r : (aluSub 8 a b c).r.toNat = (512 + a.toNat - b.toNat - c.toNat) % 256 := by
  have hb := b.isLt
  have hc := c.toNat_le
  have hr : (aluSub 8 a b c).r.toNat = ((a.toNat - b.toNat - c.toNat : Int) % 256).toNat := BitVec.toNat_ofInt _
  omega

theorem aluSub_r_eq : (aluSub 8 a b c).r = a - b - (BitVec.ofBool c).zeroExtend 8 := by
  have hb := b.isLt
  have hc := c.toNat_le
  apply BitVec.eq_of_toNat_eq
  rw [toNat_aluSub_r, BitVec.toNat_sub, BitVec.toNat_sub, toNat_ofBool_zeroExtend c (w := 8) (by decide)]
  omega

/-- The signed sum leaves the range of a byte when operands of one sign give a result of the other (R201). -/
theorem aluAdd_ov : (aluAdd 8 a b c).ov = (a.msb == b.msb && (aluAdd 8 a b c).r.msb != a.msb) := by
  have ha := a.isLt
  have hb := b.isLt
  have hc := c.toNat_le
  have hov : (aluAdd 8 a b c).ov = decide (a.toInt + b.toInt + c.toNat > 127 ∨ a.toInt + b.toInt + c.toNat < -128) := rfl
  rw [hov, toInt_byte, toInt_byte, msb_byte (aluAdd 8 a b c).r, toNat_aluAdd_r, Bool.eq_iff_iff]
  by_cases hma : 128 ≤ a.toNat <;> by_cases hmb : 128 ≤ b.toNat <;> simp [msb_byte, hma, hmb] <;> omega

/-- The signed difference leaves the range of a byte when operands of two signs give a result with that of the second
(R201). -/
theorem aluSub_ov : (aluSub 8 a b c).ov = (a.msb != b.msb && (aluSub 8 a b c).r.msb != a.msb) := by
  have ha := a.isLt
  have hb := b.isLt
  have hc := c.toNat_le
  have hov : (aluSub 8 a b c).ov = decide (a.toInt - b.toInt - c.toNat > 127 ∨ a.toInt - b.toInt - c.toNat < -128) := rfl
  rw [hov, toInt_byte, toInt_byte, msb_byte (aluSub 8 a b c).r, toNat_aluSub_r, Bool.eq_iff_iff]
  by_cases hma : 128 ≤ a.toNat <;> by_cases hmb : 128 ≤ b.toNat <;> simp [msb_byte, hma, hmb] <;> omega

end

/-- Settles O34: the sums are those of nine and five bits, and OV compares the sign bits. -/
theorem aluBitForms : Obligations.AluBitForms := by
  unfold Obligations.AluBitForms
  refine fun a b c => ⟨⟨?_, ?_, ?_, aluAdd_ov a b c, rfl⟩, aluSub_r_eq a b c, ?_, ?_, aluSub_ov a b c, rfl⟩
  · apply BitVec.eq_of_toNat_eq
    rw [toNat_aluAdd_r, BitVec.extractLsb'_toNat, toNat_sum9, Nat.shiftRight_zero]
  · rw [getLsbD_top, toNat_sum9]
    exact decide_eq_decide.2 (by omega)
  · rw [getLsbD_top, toNat_sum5]
    exact decide_eq_decide.2 (by omega)
  · exact decide_eq_decide.2 (by omega)
  · exact decide_eq_decide.2 (by omega)

/-! ## Parity -/

/-- Settles O35: a byte has 256 values, and a word's parity counts the bits of its low byte. -/
theorem parityIsEvenCount : Obligations.ParityIsEvenCount := by
  unfold Obligations.ParityIsEvenCount
  refine ⟨by decide, fun w => ?_, by decide, by decide, by decide, by decide, by decide⟩
  have hcount : ∀ j ∈ List.range 8, w.getLsbD j = true ↔ (w.extractLsb' 0 8).getLsbD j = true := fun j hj => by
    simp [List.mem_range.1 hj]
  rw [parity, parity, List.countP_congr hcount]

/-! ## CMP -/

/-- Settles O36: CMP on defined cells, and with an `UNDEF` input. -/
theorem compareUnsigned : Obligations.CompareUnsigned := by
  unfold Obligations.CompareUnsigned
  refine ⟨fun a b => aluCmp_cell (some a) (some b), fun v => ⟨rfl, ?_⟩⟩
  cases v <;> rfl

/-! ## UNDEF in, UNDEF out -/

section
variable {a b : Val} {c : Option Bool}

@[simp] theorem atWidth_undef (w : Nat) : atWidth w .undef = none := rfl

theorem arith_undef (op : (w : Nat) → BitVec w → BitVec w → Bool → AluOut w)
    (h : a = .undef ∨ b = .undef ∨ c = none) : arith op a b c = (.undef, undefFlags) := by
  obtain rfl | rfl | rfl := h
  · rfl
  · cases hx : atWidth (valWidth a) a <;> simp [arith, hx]
  · cases hx : atWidth (valWidth a) a <;> cases hy : atWidth (valWidth a) b <;> simp [arith, hx, hy]

theorem logic_undef (op : (w : Nat) → BitVec w → BitVec w → BitVec w) (h : a = .undef ∨ b = .undef) :
    logic op a b = (.undef, { p := some none }) := by
  obtain rfl | rfl := h
  · rfl
  · cases hx : atWidth (valWidth a) a <;> simp [logic, hx]

theorem bandBor_undef {c b : Option Bool} (h : c = none ∨ b = none) : aluBand c b = none ∧ aluBor c b = none := by
  obtain rfl | rfl := h
  · exact ⟨rfl, rfl⟩
  · cases c <;> exact ⟨rfl, rfl⟩

end

/-- Settles O37: by operation. -/
theorem undefPropagates : Obligations.UndefPropagates := by
  unfold Obligations.UndefPropagates
  exact ⟨fun op _ _ _ h => arith_undef op h, fun op _ _ h => logic_undef op h, rfl, rfl, rfl, rfl, rfl,
    fun _ _ h => bandBor_undef h⟩

end Sys2Proof.Machine
end

section
/-! PROOFS. The transactions of the block: their atomicity (R194, R410) and the iids without a handler (R192, R403). -/

namespace Sys2Proof.Machine

section
variable {s s' : State} {e : Fault}

theorem settled_error {r : Except Fault State} (h : settled s r = (s', .error e)) : s' = s := by
  cases r with
  | ok u => cases h
  | error f => cases h; rfl

theorem answered_error {α : Type} {f : α → Reply} {r : Except Fault α} (h : answered s f r = (s', .error e)) :
    s' = s := by
  cases r with
  | ok a => cases h
  | error f => cases h; rfl

end

/-- Settles O20: a transaction that only answers keeps the state, and one that changes it does so when it succeeds. -/
theorem transactionsAreAtomic : Obligations.TransactionsAreAtomic := by
  unfold Obligations.TransactionsAreAtomic
  intro k q s s' e h
  cases q with
  | reset | peekUflags => cases h
  | decode bytes offset va =>
    simp only [serve] at h
    split at h
    · cases h
    · cases h; rfl
  | step | execute | rfSet | load => exact settled_error h
  | getBranches | rfGet | peek => exact answered_error h

/-- The numbers without an iid are 0 and those above 40 (R101). -/
theorem ofNum_eq_none_iff : ∀ x : BitVec 8, Iid.ofNum x = none ↔ (x = 0 ∨ 40 < x.toNat) := by decide

/-- Settles O21: dispatch is by the iid alone. -/
theorem unsupportedIid : Obligations.UnsupportedIid := by
  unfold Obligations.UnsupportedIid
  refine ⟨fun k opc s h => ?_, ofNum_eq_none_iff⟩
  rw [execute, (ofNum_eq_none_iff opc.iid).2 h]

end Sys2Proof.Machine
end

section
/-! PROOFS. The instructions that compute: arithmetic and logic on bytes (R260 to R310), DPTR (R235, R280) and the carry
(R320 to R339). -/

namespace Sys2Proof.Machine

/-! ## The run of a form whose segment is IDATA -/

section
variable {s u : State} {va : Word} {iid : Iid} {len : Nat} {f : Ctx → State → Handled}

/-- The run of an IDATA form whose handler ends without moving PC (R193). -/
theorem runForm_next (hpc : s.pc = some va) (hseg : refSegTag iid.num = .idata)
    (hf : ∀ x : Ctx, x.idata → f x s = .ok (u, .next)) :
    runForm iid len f s = .next { u with pc := some (va + BitVec.ofNat 16 len) } := by
  rw [runForm_some hpc, hf _ hseg, conclude_next]

/-- The run of an IDATA form whose handler ends in a branch decision (R193, R218). -/
theorem runForm_branch {i : Instr} {c : Option Bool} {d : Int} (hpc : s.pc = some va)
    (hseg : refSegTag iid.num = .idata) (hf : ∀ x : Ctx, x.idata → f x s = branch ref x c (.rel d) u) :
    runForm iid i.length f s = .next { u with pc := branchPc i va c d } := by
  rw [runForm_some hpc, hf _ hseg, conclude_branch]
  rfl

end

/-! ## ADD, ADDC and SUBB -/

/-- The ALU function of an arithmetic operation at every width (R198, R211). -/
def ArithOp.fn : ArithOp → (w : Nat) → BitVec w → BitVec w → Bool → AluOut w
  | .add | .addc => aluAdd
  | .subb => aluSub

theorem ArithOp.fn_byte (op : ArithOp) : op.fn 8 = op.alu := by
  cases op <;> rfl

/-- On cells the ALU gives what `apply` says (R207). -/
theorem arith_apply (op : ArithOp) (a b : Cell) (c : Option Bool) :
    valCell (arith op.fn (Val.ofCell a) (Val.ofCell b) c).1 = (op.apply a b c).1 ∧
      (arith op.fn (Val.ofCell a) (Val.ofCell b) c).2 = (op.apply a b c).2 := by
  have h := arith_cells op.fn a b c
  rw [ArithOp.fn_byte] at h
  exact Prod.mk.inj (h.trans (by cases a <;> cases b <;> cases c <;> rfl))

/-- The three handlers differ in the ALU function and in the carry they read (R211). -/
theorem arithHandler_eq (op : ArithOp) (x : Ctx) (op0 op1 : Operand) (s : State) :
    op.handler ref x op0 op1 s = (do
      let a ← getOp ref x op0 s
      let b ← getOp ref x op1 s
      storeResult ref x op0 (arith op.fn a b (op.carryIn s)) s) := by
  cases op with
  | add => rfl
  | addc | subb => simp only [ArithOp.handler, handleAddc, handleSubb, readFlag_ref, except_ok_bind]; rfl

theorem arithHandler_ref {x : Ctx} (hx : x.idata) (op : ArithOp) (c : ByteSrc) (s : State) :
    op.handler ref x (.reg 8) c.operand s = .ok (writeFlags ref (op.apply (acc s) (c.cell s) (op.carryIn s)).2
      (putData 0xE0 (op.apply (acc s) (c.cell s) (op.carryIn s)).1 s), .next) := by
  obtain ⟨hval, hflags⟩ := arith_apply op (acc s) (c.cell s) (op.carryIn s)
  rw [arithHandler_eq, ← hval, ← hflags]
  exact binary_ref hx .acc c (fun a b => arith op.fn a b (op.carryIn s)) s

theorem segTag_arithOp (op : ArithOp) : refSegTag op.iid.num = .idata := by
  cases op <;> rfl

/-- Settles O45: the handler of each form stores the ALU's result in A and writes its flags. -/
theorem arithmeticOnA : Obligations.ArithmeticOnA := by
  unfold Obligations.ArithmeticOnA
  intro i op c s va hform hpc
  rw [exec_arithForm hform]
  exact runForm_next hpc (segTag_arithOp op) fun x hx => arithHandler_ref hx op c s

/-! ## ANL, ORL and XRL -/

/-- The bitwise function of a logic operation at every width (R203). -/
def LogicOp.fnAt : LogicOp → (w : Nat) → BitVec w → BitVec w → BitVec w
  | .anl => fun _ u v => u &&& v
  | .orl => fun _ u v => u ||| v
  | .xrl => fun _ u v => u ^^^ v

theorem LogicOp.fnAt_byte (op : LogicOp) : op.fnAt 8 = op.fn := by
  cases op <;> rfl

/-- On cells a logic operation gives what `apply` says (R203, R207). -/
theorem logic_apply (op : LogicOp) (a b : Cell) :
    valCell (logic op.fnAt (Val.ofCell a) (Val.ofCell b)).1 = (op.apply a b).1 ∧
      (logic op.fnAt (Val.ofCell a) (Val.ofCell b)).2 = (op.apply a b).2 := by
  have h := logic_cells op.fnAt a b
  rw [LogicOp.fnAt_byte] at h
  exact Prod.mk.inj (h.trans (by cases a <;> cases b <;> rfl))

theorem logicHandler_eq (op : LogicOp) (x : Ctx) (op0 op1 : Operand) (s : State) :
    op.handler ref x op0 op1 s = (do
      let a ← getOp ref x op0 s
      let b ← getOp ref x op1 s
      storeResult ref x op0 (logic op.fnAt a b) s) := by
  cases op <;> rfl

theorem logicHandler_ref {x : Ctx} (hx : x.idata) (op : LogicOp) {l : ByteLoc} (c : ByteSrc) {s : State} {p : Nat}
    (hp : l.offset s = some p) :
    op.handler ref x l.operand c.operand s = .ok (writeFlags ref (op.apply (l.cell s) (c.cell s)).2
      (putData p (op.apply (l.cell s) (c.cell s)).1 s), .next) := by
  obtain ⟨hval, hflags⟩ := logic_apply op (l.cell s) (c.cell s)
  rw [logicHandler_eq, binary_ref hx l c (logic op.fnAt) s, hp, ← hval, ← hflags]

theorem segTag_logicOp (op : LogicOp) : refSegTag op.iid.num = .idata := by
  cases op <;> rfl

/-- The destination of a logic form is A or a direct address, so it has an offset in every state (R286, R293, R300). -/
theorem exists_offset_of_logicForm {i : Instr} {op : LogicOp} {l : ByteLoc} {c : ByteSrc}
    (h : logicForm i = some (op, l, c)) (s : State) : ∃ p, l.offset s = some p := by
  have hloc : l = .acc ∨ ∃ a, l = .dir a := by
    cases i with
    | anlAImm | anlADir | anlAInd | anlARn | orlAImm | orlADir | orlAInd | orlARn | xrlAImm | xrlADir | xrlAInd | xrlARn =>
      cases h; exact .inl rfl
    | anlDirA | anlDirImm | orlDirA | orlDirImm | xrlDirA | xrlDirImm => cases h; exact .inr ⟨_, rfl⟩
    | _ => cases h
  obtain rfl | ⟨a, rfl⟩ := hloc
  · exact ⟨0xE0, rfl⟩
  · exact ⟨a.toNat, rfl⟩

/-- Settles O46: the destination always has an offset, and the handler stores there and writes P. -/
theorem logicBytes : Obligations.LogicBytes := by
  unfold Obligations.LogicBytes
  intro i op l c s va hform hpc
  obtain ⟨p, hp⟩ := exists_offset_of_logicForm hform s
  refine ⟨p, hp, ?_⟩
  rw [exec_logicForm hform]
  exact runForm_next hpc (segTag_logicOp op) fun x hx => logicHandler_ref hx op c hp

/-! ## INC, DEC, CLR A and CPL A -/

/-- A read of a location followed by a write of a function of what was read (R206). -/
theorem update_next {x : Ctx} (hx : x.idata) {l : ByteLoc} {f : Val → Val} {g : Byte → Byte} {s : State} {p : Nat}
    (hp : l.offset s = some p) (hf : ∀ c : Cell, f (Val.ofCell c) = Val.ofCell (c.map g)) :
    (do
      let v ← getOp ref x l.operand s
      fall (setOp ref x 0 l.operand (f v) s)) = .ok (putData p ((l.cell s).map g) s, .next) := by
  rw [update_ref hx, wroteLoc, hp, hf, valCell_ofCell, fall_ok]

/-- Settles O47: INC and DEC are one update of their location. -/
theorem incDecBytes : Obligations.IncDecBytes := by
  unfold Obligations.IncDecBytes
  intro i l k s va p hform hpc hp
  rcases exec_stepForm hform s with ⟨rfl, hexec⟩ | ⟨rfl, hexec⟩
  · rw [hexec]
    exact runForm_next hpc rfl fun x hx => update_next hx hp aluInc_cell
  · rw [hexec]
    exact runForm_next hpc rfl fun x hx => update_next hx hp fun c => by
      rw [aluDec_cell]; simp only [BitVec.sub_eq_add_neg]

/-- A result stored in A with its flags (R208). -/
theorem storeResult_acc {x : Ctx} (hx : x.idata) (c : Cell) (w : FlagWrite) (s : State) :
    storeResult ref x (.reg 8) (Val.ofCell c, w) s = .ok (writeFlags ref w (putData 0xE0 c s), .next) := by
  have h := storeResult_ref hx .acc (Val.ofCell c, w) s
  rwa [valCell_ofCell] at h

theorem handleCplA_ref {x : Ctx} (hx : x.idata) (s : State) :
    handleCplA ref x (.reg 8) s = .ok (writeFlags ref { p := some ((acc s).map fun a => parity (~~~a)) }
      (putData 0xE0 ((acc s).map (~~~·)) s), .next) := by
  simp only [handleCplA, getOp, regGet_acc, except_ok_bind, aluNot_cell, parityOf_cell, storeResult_acc hx,
    Option.map_map]
  rfl

/-- Settles O48: both store their result in A with its parity. -/
theorem clearAndComplementA : Obligations.ClearAndComplementA := by
  unfold Obligations.ClearAndComplementA
  have hzero : parity (0 : Byte) = true := by decide
  intro s va hpc
  constructor
  · refine runForm_next (f := fun x => handleClrA ref x (.reg 8)) hpc rfl fun x hx => ?_
    rw [handleClrA, hzero]
    exact storeResult_acc hx (some 0) _ s
  · exact runForm_next (f := fun x => handleCplA ref x (.reg 8)) hpc rfl fun x hx => handleCplA_ref hx s

/-! ## DPTR -/

/-- Settles O39: both write the two halves of DPTR. -/
theorem dptrForms : Obligations.DptrForms := by
  unfold Obligations.DptrForms
  intro s va hpc
  exact ⟨fun imm => runForm_next (f := fun x => handleMov ref x (.reg 11) (.imm16 imm)) hpc rfl fun x _ =>
      handleMov_dptr x imm s,
    runForm_next (f := fun x => handleInc ref x (.reg 11)) hpc rfl fun x _ => handleInc_dptr x s⟩

/-! ## The carry -/

/-- The run of a form whose handler rewrites the carry and P (R205). -/
theorem runForm_carry {s : State} {va : Word} {iid : Iid} {len : Nat} {f : Ctx → State → Handled} {c : Option Bool}
    (hpc : s.pc = some va) (hseg : refSegTag iid.num = .idata)
    (hf : ∀ x : Ctx, x.idata → f x s = fall (writeCarry ref c s)) :
    runForm iid len f s = .next { writeFlags ref { c := some c, p := some ((acc s).map parity) } s with
      pc := some (va + BitVec.ofNat 16 len) } :=
  runForm_next hpc hseg fun x hx => by rw [hf x hx, writeCarry_ref, fall_ok]

/-- Settles O49: each of the eight handlers ends in a write of the carry `carryForm` gives. -/
theorem carryRewrites : Obligations.CarryRewrites := by
  unfold Obligations.CarryRewrites
  intro i c s va hform hpc
  cases i with
  | clrC => cases hform; exact runForm_carry (f := fun _ => handleClrC ref) hpc rfl fun _ _ => rfl
  | setbC => cases hform; exact runForm_carry (f := fun _ => handleSetbC ref) hpc rfl fun _ _ => rfl
  | cplC =>
    cases hform
    exact runForm_carry (f := fun _ => handleCplC ref) hpc rfl fun x _ => by simp [handleCplC]
  | movCBit =>
    cases hform
    exact runForm_carry (f := fun x => handleMovCB ref x _) hpc rfl fun x hx => by simp [handleMovCB, getOp_bit hx]
  | anlCBit =>
    cases hform
    exact runForm_carry (f := fun x => handleAnlC ref x _) hpc rfl fun x hx => by simp [handleAnlC, getOp_bit hx]
  | anlCNbit =>
    cases hform
    exact runForm_carry (f := fun x => handleAnlC ref x _) hpc rfl fun x hx => by simp [handleAnlC, getOp_nbit hx]
  | orlCBit =>
    cases hform
    exact runForm_carry (f := fun x => handleOrlC ref x _) hpc rfl fun x hx => by simp [handleOrlC, getOp_bit hx]
  | orlCNbit =>
    cases hform
    exact runForm_carry (f := fun x => handleOrlC ref x _) hpc rfl fun x hx => by simp [handleOrlC, getOp_nbit hx]
  | _ => cases hform

end Sys2Proof.Machine
end

section
/-! PROOFS. The instructions that branch (R362 to R381) and those that use the stack (R212 to R216, R244 to R247, R358 to
R361). -/

namespace Sys2Proof.Machine

/-! ## Conditional branches -/

/-- Whether A is not zero is the complement of whether it is (R368). -/
theorem aluBnot_isZero (c : Cell) : aluBnot (c.map (· == 0)) = c.map (· != 0) := by
  cases c <;> rfl

/-- Settles O54: each handler reads its condition and ends in the branch decision. -/
theorem conditionalBranches : Obligations.ConditionalBranches := by
  unfold Obligations.ConditionalBranches
  have hacc : ref.cfg.accReg = 8 := rfl
  intro i c d s va hform hpc
  cases i with
  | jc =>
    cases hform
    exact runForm_branch (i := .jc d) (f := fun x => handleJc ref x (.rel d)) hpc rfl fun x _ => by simp [handleJc]
  | jnc =>
    cases hform
    exact runForm_branch (i := .jnc d) (f := fun x => handleJnc ref x (.rel d)) hpc rfl fun x _ => by simp [handleJnc]
  | jz =>
    cases hform
    exact runForm_branch (i := .jz d) (f := fun x => handleJz ref x (.rel d)) hpc rfl fun x _ => by
      simp only [handleJz, hacc, regGet_acc, except_ok_bind, isZeroVal_cell]
  | jnz =>
    cases hform
    exact runForm_branch (i := .jnz d) (f := fun x => handleJnz ref x (.rel d)) hpc rfl fun x _ => by
      simp only [handleJnz, hacc, regGet_acc, except_ok_bind, isZeroVal_cell, aluBnot_isZero]
  | jb b =>
    cases hform
    refine runForm_branch (i := .jb b d) (f := fun x => handleJb ref x (Operand.ofBitaddr b false) (.rel d)) hpc rfl
      fun x hx => ?_
    simp [handleJb, getOp_bit hx]
  | jnb b =>
    cases hform
    refine runForm_branch (i := .jnb b d) (f := fun x => handleJnb ref x (Operand.ofBitaddr b false) (.rel d)) hpc rfl
      fun x hx => ?_
    simp [handleJnb, getOp_bit hx]
  | _ => cases hform

theorem handleCjne_ref {x : Ctx} (hx : x.idata) (l : ByteLoc) (c : ByteSrc) (op : Operand) (s : State) :
    handleCjne ref x l.operand c.operand op s =
      branch ref x ((l.cell s).bind fun a => (c.cell s).map fun b => decide (a ≠ b)) op (writeFlags ref
        { c := some ((l.cell s).bind fun a => (c.cell s).map fun b => decide (a.toNat < b.toNat)),
          p := some ((acc s).map parity) } s) := by
  simp only [handleCjne, getOp_loc hx, getOp_src hx, except_ok_bind, writeCarry_ref, aluCmp_cell, Option.map_bind,
    Function.comp_def, Option.map_map]

/-- Settles O55: CMP gives the carry that is written and the condition of the branch. -/
theorem compareAndBranch : Obligations.CompareAndBranch := by
  unfold Obligations.CompareAndBranch
  intro i l c d s va hform hpc
  rw [exec_cjneForm hform]
  exact runForm_branch hpc rfl fun x hx => handleCjne_ref hx l c (.rel d) s

theorem handleDjnz_ref {x : Ctx} (hx : x.idata) {l : ByteLoc} (op : Operand) {s : State} {p : Nat}
    (hp : l.offset s = some p) :
    handleDjnz ref x l.operand op s =
      branch ref x ((l.cell s).map fun v => v - 1 != 0) op (putData p ((l.cell s).map (· - 1)) s) := by
  simp only [handleDjnz, getOp_loc hx, except_ok_bind, aluDec_cell, setOp_loc hx, hp, valCell_ofCell, isZeroVal_cell,
    aluBnot_isZero]
  rw [Option.map_map]
  rfl

/-- Settles O56: the counter's location is updated and the new value decides the branch. -/
theorem decrementAndBranch : Obligations.DecrementAndBranch := by
  unfold Obligations.DecrementAndBranch
  intro i l d s va p hform hpc hp
  rw [exec_djnzForm hform]
  exact runForm_branch hpc rfl fun x hx => handleDjnz_ref hx (.rel d) hp

/-! ## The stack -/

theorem popped_of_stackPtr {s : State} {p : Byte} (hp : stackPtr s = some p) :
    popped s = (dataCell p.toNat s, putData 0x81 (some (p - 1)) s) := by
  rw [popped, hp]

theorem popped_undef {s : State} (hp : stackPtr s = none) : popped s = (none, s) := by
  rw [popped, hp]

theorem stackPtr_putSp (c : Cell) (s : State) : stackPtr (putData 0x81 c s) = c := by
  rw [stackPtr, putData_store, Memory.read_write_same]

/-- POP writes what it popped to its operand (R246). -/
theorem exec_pop {s : State} {va : Word} (hpc : s.pc = some va) (a : Byte) :
    exec (.pop a) s = .next { putData a.toNat (popped s).1 (popped s).2 with pc := some (va + 2) } :=
  runForm_next (f := fun x => handlePop ref x (.dir a)) hpc rfl fun _ hx => handlePop_ref hx a s

/-- Settles O43: PUSH at a defined stack pointer, POP by whether it is defined. -/
theorem pushAndPop : Obligations.PushAndPop := by
  unfold Obligations.PushAndPop
  intro a s va hpc
  refine ⟨fun p hp => ?_, fun p hp => ?_, fun hp => ?_⟩
  · exact runForm_next (f := fun x => handlePush ref x (.dir a)) hpc rfl fun x hx => by
      rw [handlePush_ref hx, hp]
      rfl
  · rw [exec_pop hpc, popped_of_stackPtr hp]
  · rw [exec_pop hpc, popped_undef hp]

/-- The stack pointer after a push: one more, unless the pushed byte fell on SP itself (R212). -/
theorem stackPtr_pushed (p : Byte) (v : Cell) (s : State) :
    stackPtr (pushed p v s) = if p = 0x80 then v else some (p + 1) := by
  have hsp : (p + 1).toNat = 0x81 ↔ p = 0x80 := ⟨fun h => by bv_omega, fun h => by rw [h]; rfl⟩
  rw [stackPtr, pushed_store, Memory.read_write, Memory.read_write_same]
  simp only [hsp]

/-- LCALL with two pushes that both find a stack pointer (R214, R358). -/
theorem exec_lcall {s : State} {va : Word} {p q : Byte} (hpc : s.pc = some va) (hp : stackPtr s = some p)
    (hq : stackPtr (pushed p (some ((va + 3).extractLsb' 0 8)) s) = some q) (t : Word) :
    exec (.lcall t) s =
      .next { pushed q (some ((va + 3).extractLsb' 8 8)) (pushed p (some ((va + 3).extractLsb' 0 8)) s) with
        pc := some t } := by
  change runForm .lcall 3 (fun x => handleLcall ref x (.abs t)) s = _
  have hnext : (Ctx.mk va 3 (refSegTag Iid.lcall.num)).next = va + 3 := rfl
  rw [runForm_some hpc]
  simp only [handleLcall, getOp, except_ok_bind, pushReturn_ref, hnext, push_ref, hp, hq, valWord_word]
  rfl

/-- Settles O52: the first push leaves a defined stack pointer, since the byte it pushes is. -/
theorem longCall : Obligations.LongCall := by
  unfold Obligations.LongCall
  intro t s va p hpc hp
  have hlow := stackPtr_pushed p (some ((va + 3).extractLsb' 0 8)) s
  by_cases h80 : p = 0x80
  · rw [if_pos h80] at hlow
    exact ⟨_, hlow, fun hne => absurd h80 hne, exec_lcall hpc hp hlow t⟩
  · rw [if_neg h80] at hlow
    exact ⟨_, hlow, fun _ => rfl, exec_lcall hpc hp hlow t⟩

/-- Settles O53: RET goes to the two bytes it popped. (`return` is a keyword.) -/
theorem exec_ret : Obligations.Return := by
  unfold Obligations.Return
  intro s va hpc
  change runForm .ret 1 (fun _ => handleRet ref) s = _
  rw [runForm_some hpc]
  simp only [handleRet, popReturn_ref, except_ok_bind]
  cases (popped s).1 <;> cases (popped (popped s).2).1 <;> rfl

/-! ## A call and its return -/

/-- A pushed byte is read back at its cell (R69, R212). -/
theorem dataCell_pushed_same (p b : Byte) (s : State) : dataCell (p + 1).toNat (pushed p (some b) s) = some b :=
  dataCell_putData_same _ b _

/-- A push leaves every cell but its own and SP (R212). -/
theorem dataCell_pushed_ne {p : Byte} {a : Nat} (v : Cell) (s : State) (hcell : (p + 1).toNat ≠ a) (hsp : 0x81 ≠ a) :
    dataCell a (pushed p v s) = dataCell a s := by
  rw [pushed, dataCell_putData_ne _ _ hcell, dataCell_putData_ne _ _ hsp]

/-- RET with both stack bytes defined, neither of them SP (R215, R360). -/
theorem exec_ret_of_cells {w : State} {va : Word} {p h l : Byte} (hpc : w.pc = some va)
    (hsp : stackPtr w = some (p + 2)) (hhigh : dataCell (p + 2).toNat w = some h)
    (hlow : dataCell (p + 1).toNat w = some l) (h80 : p ≠ 0x80) :
    exec .ret w = .next { putData 0x81 (some p) (putData 0x81 (some (p + 1)) w) with pc := some (h ++ l) } := by
  have hne : 0x81 ≠ (p + 1).toNat := fun h => h80 (by bv_omega)
  have hone : p + 2 - 1 = p + 1 := by bv_omega
  have hfirst : popped w = (some h, putData 0x81 (some (p + 1)) w) := by rw [popped_of_stackPtr hsp, hhigh, hone]
  have hsp1 : stackPtr (putData 0x81 (some (p + 1)) w) = some (p + 1) := stackPtr_putSp _ _
  have hsecond : popped (putData 0x81 (some (p + 1)) w) =
      (some l, putData 0x81 (some p) (putData 0x81 (some (p + 1)) w)) := by
    rw [popped_of_stackPtr hsp1, dataCell_putData_ne _ _ hne, hlow, BitVec.add_sub_cancel]
  rw [exec_ret w va hpc, hfirst, hsecond]

/-- The return address as two pushes leave it on the stack, SP two above where it was (R214). -/
theorem stack_of_call {p : Byte} (lo hi : Byte) (s : State) (h80 : p ≠ 0x80) (h7F : p ≠ 0x7F) :
    stackPtr (pushed (p + 1) (some hi) (pushed p (some lo) s)) = some (p + 2) ∧
      dataCell (p + 2).toNat (pushed (p + 1) (some hi) (pushed p (some lo) s)) = some hi ∧
      dataCell (p + 1).toNat (pushed (p + 1) (some hi) (pushed p (some lo) s)) = some lo := by
  have htwo : p + 1 + 1 = p + 2 := by bv_omega
  have hne : p + 1 ≠ 0x80 := fun h => h7F (by bv_omega)
  have hcell : (p + 1 + 1).toNat ≠ (p + 1).toNat := by bv_omega
  have hsp : 0x81 ≠ (p + 1).toNat := fun h => h80 (by bv_omega)
  refine ⟨?_, ?_, ?_⟩
  · rw [stackPtr_pushed, if_neg hne, htwo]
  · rw [← htwo]
    exact dataCell_pushed_same (p + 1) hi _
  · rw [dataCell_pushed_ne _ _ hcell hsp, dataCell_pushed_same]

/-- Settles O58: the call leaves SP two above `p` and the two bytes of the return address in the cells below, and RET puts
them together again. -/
theorem callReturnRoundTrip : Obligations.CallReturnRoundTrip := by
  unfold Obligations.CallReturnRoundTrip
  intro t va s u w p hpc hp h80 h7F hcall hsp hlow hhigh hwpc
  obtain ⟨q, -, hq, hexec⟩ := longCall t s va p hpc hp
  obtain rfl := hq h80
  obtain rfl := Host.Outcome.next.inj (hexec.symm.trans hcall)
  obtain ⟨husp, huhigh, hulow⟩ := stack_of_call ((va + 3).extractLsb' 0 8) ((va + 3).extractLsb' 8 8) s h80 h7F
  obtain ⟨vw, hvw⟩ := Option.ne_none_iff_exists'.1 hwpc
  have hret := exec_ret_of_cells hvw (hsp.trans husp) (hhigh.trans huhigh) (hlow.trans hulow) h80
  refine ⟨_, hret, congrArg some BitVec.extractLsb'_append_extractLsb', ?_⟩
  exact stackPtr_putSp (some p) (putData 0x81 (some (p + 1)) w)

end Sys2Proof.Machine
end

section
/-! PROOFS. The instructions that move a byte to a location (R220 to R234) and those that exchange one with A (R248 to
R251). -/

namespace Sys2Proof.Machine

section
variable {x : Ctx} {l : ByteLoc} {s : State} {p : Nat}

theorem wroteLoc_of_offset (hp : l.offset s = some p) (pos : Nat) (v : Cell) :
    wroteLoc l pos v s = .ok (putData p v s) := by
  rw [wroteLoc, hp]

theorem handleMov_of_offset (hx : x.idata) (c : ByteSrc) (hp : l.offset s = some p) :
    handleMov ref x l.operand c.operand s = .ok (putData p (c.cell s) s, .next) := by
  rw [handleMov_ref hx, wroteLoc_of_offset hp, fall_ok]

theorem handleXch_of_offset (hx : x.idata) (hp : l.offset s = some p) :
    handleXch ref x (.reg 8) l.operand s = .ok (putData p (acc s) (putData 0xE0 (l.cell s) s), .next) := by
  rw [handleXch_ref hx, hp]

end

/-- Settles O38: MOV is one write of the source cell at the offset of its destination. -/
theorem movBytes : Obligations.MovBytes := by
  unfold Obligations.MovBytes
  intro i l c s va p hform hpc hp
  rw [exec_movForm hform]
  exact runForm_next hpc rfl fun _ hx => handleMov_of_offset hx c hp

/-- Settles O44: XCH writes A and then the other operand, whose offset the write of A does not move. -/
theorem xchBytes : Obligations.XchBytes := by
  unfold Obligations.XchBytes
  intro i l s va p hform hpc hp
  rw [exec_xchForm hform]
  exact runForm_next hpc rfl fun _ hx => handleXch_of_offset hx hp

end Sys2Proof.Machine
end

section
/-! PROOFS. When an execution stops and with which error (R405, R407, R413), and the errors a step can end in (R412). -/

namespace Sys2Proof.Machine

/-! ## Outcomes as `raises` foretells them -/

/-- The outcome is this error, or a completion where there is none: what `raises` says of an execution (R413). -/
def EndsAs (r : Host.Outcome State Fault Refusal) : Option Fault → Prop
  | some f => r = .fault f
  | none => ∃ t, r = .next t

section
variable {i : Instr} {s : State} {va : Word}

/-! ## Byte destinations -/

/-- A form whose byte destination has an offset completes, in each of the five families that have one. -/
theorem exec_definedDest {l : ByteLoc} {pos p : Nat} (hd : destForm i = some (l, pos)) (hpc : s.pc = some va)
    (hp : l.offset s = some p) : ∃ t, exec i s = .next t := by
  rcases destForm_cases hd with ⟨-, c, hm⟩ | ⟨-, hm⟩ | ⟨-, op, c, hm⟩ | ⟨-, k, hm⟩ | ⟨-, d, hm⟩
  · exact ⟨_, movBytes i l c s va p hm hpc hp⟩
  · exact ⟨_, xchBytes i l s va p hm hpc hp⟩
  · obtain ⟨_, -, hexec⟩ := logicBytes i op l c s va hm hpc
    exact ⟨_, hexec⟩
  · exact ⟨_, incDecBytes i l k s va p hm hpc hp⟩
  · exact ⟨_, decrementAndBranch i l d s va p hm hpc hp⟩

theorem raises_of_destForm {l : ByteLoc} {pos : Nat} (hd : destForm i = some (l, pos)) :
    raises i va s = if l.offset s = none then some (.undefinedAddress (l.access pos)) else none := by
  simp only [raises, hd]
  cases l.offset s <;> rfl

theorem raises_of_no_destForm (hd : destForm i = none) : raises i va s = otherRaises i va s := by
  simp only [raises, hd]

theorem exec_endsAs_of_destForm {l : ByteLoc} {pos : Nat} (hd : destForm i = some (l, pos)) (hpc : s.pc = some va) :
    EndsAs (exec i s) (raises i va s) := by
  rw [raises_of_destForm hd]
  cases hp : l.offset s with
  | none => exact exec_undefinedDest hd hpc hp
  | some p => exact exec_definedDest hd hpc hp

/-! ## The forms without a byte destination that can stop -/

theorem otherRaises_movxADptr :
    otherRaises .movxADptr va s = (dptr s).bind fun w => storeFaultAt w (xdataOffset w) := rfl

theorem otherRaises_movxDptrA : otherRaises .movxDptrA va s =
    (dptr s).elim (some (.undefinedAddress (.operand 0))) fun w => storeFaultAt w (xdataOffset w) := by
  unfold otherRaises
  cases dptr s <;> rfl

theorem otherRaises_movxIndA (j : Fin 2) : otherRaises (.movxIndA j) va s =
    (rnCell j.val s).elim (some (.undefinedAddress (.operand 0))) fun _ => none := by
  unfold otherRaises
  dsimp only
  cases rnCell j.val s <;> rfl

theorem otherRaises_push (a : Byte) : otherRaises (.push a) va s =
    (stackPtr s).elim (some (.undefinedAddress .stack)) fun _ => none := by
  unfold otherRaises
  cases stackPtr s <;> rfl

theorem otherRaises_lcall (w : Word) : otherRaises (.lcall w) va s =
    (stackPtr s).elim (some (.undefinedAddress .stack)) fun _ => none := by
  unfold otherRaises
  cases stackPtr s <;> rfl

/-! ## Data addresses in XDATA and CODE -/

/-- An address is either harmless, being `UNDEF` or having an offset, or defined without an offset (R67, R405). -/
theorem storeFault_cases (a : Option Word) (offset : Word → Option Nat) :
    ((a.bind fun w => storeFaultAt w (offset w)) = none ∧ ∀ w, a = some w → (offset w).isSome = true) ∨
      ∃ w, a = some w ∧ offset w = none := by
  cases a with
  | none => exact .inl ⟨rfl, nofun⟩
  | some w =>
    cases hp : offset w with
    | none => exact .inr ⟨w, rfl, hp⟩
    | some p =>
      refine .inl ⟨by rw [Option.bind_some, hp]; rfl, ?_⟩
      rintro _ ⟨⟩
      rw [hp]
      rfl

theorem bind_storeFaultAt_of_none {a : Option Word} {w : Word} {offset : Word → Option Nat} (ha : a = some w)
    (hw : offset w = none) : (a.bind fun w => storeFaultAt w (offset w)) = some (.storeFault .sfr w.toNat) := by
  rw [ha, Option.bind_some, hw, storeFaultAt]

theorem getAt_xdata_fault {x : Ctx} {kind : AccessKind} {w : Word} (hx : x.seg = .xdata) (hw : xdataOffset w = none) :
    getAt ref x kind (some w) s = .error (.storeFault .sfr w.toNat) := by
  simp only [getAt_xdata hx, hw]

theorem getAt_code_fault {x : Ctx} {kind : AccessKind} {w : Word} (hx : x.seg = .code) (hw : codeDataOffset w = none) :
    getAt ref x kind (some w) s = .error (.storeFault .sfr w.toNat) := by
  simp only [getAt_code hx, hw]

theorem handleMovx_readFault {x : Ctx} {op0 op1 : Operand} {e : Fault} (h : getOp ref x op1 s = .error e) :
    handleMovx ref x op0 op1 s = .error e := by
  rw [handleMovx, h, except_error_bind]

theorem indexedAddress_dptr (x : Ctx) (s : State) : indexedAddress ref x 11 s = .ok (accPlus (dptr s) s) :=
  indexedAddress_ref x 11 (.inl rfl) s

theorem indexedAddress_pc (x : Ctx) (s : State) : indexedAddress ref x 12 s = .ok (accPlus (some x.next) s) :=
  indexedAddress_ref x 12 (.inr rfl) s

/-- A data address of CODE without an offset ends MOVC (R241, R405). -/
theorem handleMovc_idx_fault {x : Ctx} {idx : Nat} {w : Word} (hx : x.seg = .code)
    (ha : indexedAddress ref x idx s = .ok (some w)) (hw : codeDataOffset w = none) :
    handleMovc ref x (.reg 8) (.idx idx) s = .error (.storeFault .sfr w.toNat) :=
  handleMovx_readFault (by rw [getOp, ha, except_ok_bind, getAt_code_fault hx hw])

theorem exec_movxADptr_fault {w : Word} (hpc : s.pc = some va) (hd : dptr s = some w) (hw : xdataOffset w = none) :
    exec .movxADptr s = .fault (.storeFault .sfr w.toNat) := by
  refine (runForm_some hpc .movx 1 _).trans ?_
  rw [handleMovx_readFault (by rw [getOp, pointer_dptr, hd]; exact getAt_xdata_fault rfl hw), conclude_error]

/-- MOVX through DPTR into A completes unless its data address has no offset (R236, R405). -/
theorem exec_movxADptr_endsAs (hpc : s.pc = some va) :
    EndsAs (exec .movxADptr s) (otherRaises .movxADptr va s) := by
  rw [otherRaises_movxADptr]
  obtain ⟨hnone, hoffset⟩ | ⟨w, hd, hw⟩ := storeFault_cases (dptr s) xdataOffset
  · rw [hnone]
    exact ⟨_, exec_movxADptr hpc hoffset⟩
  · rw [bind_storeFaultAt_of_none hd hw]
    exact exec_movxADptr_fault hpc hd hw

theorem exec_movc_fault {base : Option Word} {w : Word} (hpc : s.pc = some va)
    (hi : i = .movcADptr ∧ base = dptr s ∨ i = .movcAPc ∧ base = some (va + 1)) (ha : accPlus base s = some w)
    (hw : codeDataOffset w = none) : exec i s = .fault (.storeFault .sfr w.toNat) := by
  rcases hi with ⟨rfl, rfl⟩ | ⟨rfl, rfl⟩
  · exact (runForm_some hpc .movc 1 _).trans (congrArg (conclude va 1) (handleMovc_idx_fault (x := ⟨va, 1, .code⟩) rfl
      ((indexedAddress_dptr _ s).trans (congrArg Except.ok ha)) hw))
  · exact (runForm_some hpc .movc 1 _).trans (congrArg (conclude va 1) (handleMovc_idx_fault (x := ⟨va, 1, .code⟩) rfl
      ((indexedAddress_pc _ s).trans (congrArg Except.ok ha)) hw))

/-- MOVC completes unless its data address has no offset (R241, R405). -/
theorem exec_movc_endsAs {base : Option Word} (hpc : s.pc = some va)
    (hi : i = .movcADptr ∧ base = dptr s ∨ i = .movcAPc ∧ base = some (va + 1)) :
    EndsAs (exec i s) ((accPlus base s).bind fun w => storeFaultAt w (codeDataOffset w)) := by
  obtain ⟨hnone, hoffset⟩ | ⟨w, ha, hw⟩ := storeFault_cases (accPlus base s) codeDataOffset
  · rw [hnone]
    exact ⟨_, exec_movc hpc hi hoffset⟩
  · rw [bind_storeFaultAt_of_none ha hw]
    exact exec_movc_fault hpc hi ha hw

/-- MOVX from A through DPTR needs a defined pointer whose address has an offset (R236, R405, R407). -/
theorem exec_movxDptrA_endsAs (hpc : s.pc = some va) :
    EndsAs (exec .movxDptrA s) (otherRaises .movxDptrA va s) := by
  rw [otherRaises_movxDptrA, exec_movxDptrA hpc, setAt_xdata rfl]
  cases dptr s with
  | none => exact conclude_error _ _ _
  | some w =>
    rw [Option.elim_some]
    dsimp only
    cases xdataOffset w with
    | none => exact conclude_error _ _ _
    | some p => exact ⟨_, conclude_next _ _ _⟩

/-- MOVX from A through @Ri needs a defined pointer; the address in a byte has an offset (R236, R407). -/
theorem exec_movxIndA_endsAs (hpc : s.pc = some va) (j : Fin 2) :
    EndsAs (exec (.movxIndA j) s) (otherRaises (.movxIndA j) va s) := by
  rw [otherRaises_movxIndA]
  cases hb : rnCell j.val s with
  | none =>
    obtain ⟨-, htraps⟩ := undefinedDestinationTraps
    exact (htraps s va hpc).1 j hb
  | some b =>
    obtain ⟨p, hp⟩ := Option.isSome_iff_exists.1 (xdataOffset_byte b)
    obtain ⟨-, hwrite⟩ := movxWrites s va hpc
    exact ⟨_, hwrite j b p hb hp⟩

/-! ## The stack -/

/-- PUSH needs a defined stack pointer (R212, R407). -/
theorem exec_push_endsAs (hpc : s.pc = some va) (a : Byte) :
    EndsAs (exec (.push a) s) (otherRaises (.push a) va s) := by
  rw [otherRaises_push]
  cases hp : stackPtr s with
  | none =>
    exact runForm_fault (f := fun x => handlePush ref x (.dir a)) hpc rfl fun x hx => by
      rw [handlePush_ref hx, hp, fall_error]
  | some p =>
    obtain ⟨hpush, -⟩ := pushAndPop a s va hpc
    exact ⟨_, hpush p hp⟩

/-- LCALL needs a defined stack pointer before its first push only (R214, R407). -/
theorem exec_lcall_endsAs (hpc : s.pc = some va) (w : Word) :
    EndsAs (exec (.lcall w) s) (otherRaises (.lcall w) va s) := by
  rw [otherRaises_lcall]
  cases hp : stackPtr s with
  | none =>
    exact runForm_fault (f := fun x => handleLcall ref x (.abs w)) hpc rfl fun x _ => by
      simp only [handleLcall, getOp, pushReturn_ref, push_ref, hp, except_ok_bind, except_error_bind]
  | some p =>
    obtain ⟨_, -, -, hexec⟩ := longCall w s va p hpc hp
    exact ⟨_, hexec⟩

/-! ## Every instruction -/

/-- Of the forms without a byte destination only MOVX, MOVC, PUSH and LCALL can stop (R413). -/
theorem exec_endsAs_of_no_destForm (hd : destForm i = none) (hpc : s.pc = some va) :
    EndsAs (exec i s) (otherRaises i va s) := by
  cases i with
  | movxADptr => exact exec_movxADptr_endsAs hpc
  | movxDptrA => exact exec_movxDptrA_endsAs hpc
  | movxIndA j => exact exec_movxIndA_endsAs hpc j
  | movcADptr => exact exec_movc_endsAs hpc (.inl ⟨rfl, rfl⟩)
  | movcAPc => exact exec_movc_endsAs hpc (.inr ⟨rfl, rfl⟩)
  | push a => exact exec_push_endsAs hpc a
  | lcall w => exact exec_lcall_endsAs hpc w
  | movxAInd j => exact ⟨_, exec_movxAInd hpc j⟩
  | movDptrImm imm => exact ⟨_, (dptrForms s va hpc).1 imm⟩
  | incDptr => exact ⟨_, (dptrForms s va hpc).2⟩
  | pop a => exact ⟨_, exec_pop hpc a⟩
  | ret => exact ⟨_, exec_ret s va hpc⟩
  | nop => exact ⟨_, exec_nop hpc⟩
  | ljmp w => exact ⟨_, exec_ljmp hpc w⟩
  | sjmp d => exact ⟨_, exec_sjmp hpc d⟩
  | jmpADptr => exact ⟨_, exec_jmpADptr hpc⟩
  | clrA => exact ⟨_, (clearAndComplementA s va hpc).1⟩
  | cplA => exact ⟨_, (clearAndComplementA s va hpc).2⟩
  | addAImm | addADir | addAInd | addARn | addcAImm | addcADir | addcAInd | addcARn | subbAImm | subbADir | subbAInd
  | subbARn => exact ⟨_, arithmeticOnA _ _ _ s va rfl hpc⟩
  | clrC | setbC | cplC | movCBit | anlCBit | anlCNbit | orlCBit | orlCNbit =>
    exact ⟨_, carryRewrites _ _ s va rfl hpc⟩
  | clrBit | setbBit | cplBit | movBitC => exact ⟨_, bitWrites _ _ _ s va rfl hpc⟩
  | jc | jnc | jz | jnz | jb | jnb => exact ⟨_, conditionalBranches _ _ _ s va rfl hpc⟩
  | cjneAImm | cjneADir | cjneIndImm | cjneRnImm => exact ⟨_, compareAndBranch _ _ _ _ s va rfl hpc⟩
  | _ => cases hd

theorem exec_endsAs (hpc : s.pc = some va) : EndsAs (exec i s) (raises i va s) := by
  cases hd : destForm i with
  | some d => exact exec_endsAs_of_destForm hd hpc
  | none =>
    rw [raises_of_no_destForm hd]
    exact exec_endsAs_of_no_destForm hd hpc

/-- Settles O18: by whether the instruction has a byte destination. -/
theorem execRaises : Obligations.ExecRaises := by
  unfold Obligations.ExecRaises
  intro i s va hpc
  exact exec_endsAs hpc

/-! ## The codes of the errors of an execution -/

theorem storeFaultAt_code {w : Word} {p : Option Nat} {f : Fault} (h : storeFaultAt w p = some f) : f.code = 6 := by
  cases p with
  | none => cases h; rfl
  | some p => cases h

theorem bind_storeFaultAt_code {a : Option Word} {offset : Word → Option Nat} {f : Fault}
    (h : (a.bind fun w => storeFaultAt w (offset w)) = some f) : f.code = 6 := by
  obtain ⟨w, -, hw⟩ := Option.bind_eq_some_iff.1 h
  exact storeFaultAt_code hw

theorem undefinedAddress_code {α : Type} {a : Option α} {access : AccessId} {f : Fault}
    (h : (a.elim (some (.undefinedAddress access)) fun _ => none) = some f) : f.code = 8 := by
  cases a with
  | none => cases h; rfl
  | some _ => cases h

/-- An instruction can stop in StoreFault and UndefinedAddress only (R405, R407). -/
theorem otherRaises_code {f : Fault} (h : otherRaises i va s = some f) : f.code = 6 ∨ f.code = 8 := by
  cases i with
  | movxADptr | movcADptr | movcAPc => exact .inl (bind_storeFaultAt_code h)
  | movxDptrA =>
    rw [otherRaises_movxDptrA] at h
    cases hd : dptr s with
    | none => rw [hd] at h; cases h; exact .inr rfl
    | some w => rw [hd] at h; exact .inl (storeFaultAt_code h)
  | movxIndA j => exact .inr (undefinedAddress_code ((otherRaises_movxIndA j).symm.trans h))
  | push a => exact .inr (undefinedAddress_code ((otherRaises_push a).symm.trans h))
  | lcall w => exact .inr (undefinedAddress_code ((otherRaises_lcall w).symm.trans h))
  | _ => cases h

theorem raises_code {f : Fault} (h : raises i va s = some f) : f.code = 6 ∨ f.code = 8 := by
  cases hd : destForm i with
  | none =>
    rw [raises_of_no_destForm hd] at h
    exact otherRaises_code h
  | some d =>
    rw [raises_of_destForm hd] at h
    split at h
    · cases h; exact .inr rfl
    · cases h

end

end Sys2Proof.Machine
end

section
/-! PROOFS. The errors a step of REF can end in (R412): those of a fetch, which never meets a malformed entry (R111), and
those of an execution. -/

namespace Sys2Proof

/-! ## No decode of REF meets a malformed entry -/

/-- The error of a malformed ROM entry (R111, R408). -/
def DecodeError.isMalformed : DecodeError → Bool
  | .malformed _ _ => true
  | .truncated _ _ | .invalid _ | .undefinedByte _ => false

section
variable {buf : Buffer} {off cur k : Nat} {va : Word} {bad e : DecodeError} {ds : List OpDesc} {d : OpDesc}
  {bs : List Byte}

theorem readBytes_error (h : readBytes buf off cur k = .error e) : ∃ j, e = .undefinedByte j := by
  induction k generalizing cur with
  | zero => cases h
  | succ k ih =>
    unfold readBytes at h
    split at h
    · cases h; exact ⟨_, rfl⟩
    · split at h
      · cases h
      · next he => cases h; exact ih he

/-- Whether a descriptor builds an operand depends on how many bytes it is given only (R135). -/
theorem exists_build_of_length_eq {bs' : List Byte} {o : Operand} (h : d.build refCfg bs = some o)
    (hlen : bs.length = bs'.length) : ∃ o', d.build refCfg bs' = some o' := by
  unfold OpDesc.build at h ⊢
  generalize d.tag.toNat = tag at h ⊢
  rcases tag with _ | _ | _ | _ | _ | _ | _ | _ | _ | _ | tag
  all_goals rcases bs with _ | ⟨x, _ | ⟨y, _ | ⟨z, bs⟩⟩⟩
  all_goals cases h
  all_goals rcases bs' with _ | ⟨x', _ | ⟨y', _ | ⟨z', bs'⟩⟩⟩
  all_goals cases hlen
  all_goals exact ⟨_, rfl⟩

/-- A descriptor that builds an operand from zero bytes builds one from any bytes of its size (R135). -/
theorem exists_build_of_sample {o : Operand} (hs : d.sample = some o) (hk : d.bytes = some bs.length) :
    ∃ o', d.build refCfg bs = some o' := by
  rw [OpDesc.sample, hk, Option.bind_some] at hs
  exact exists_build_of_length_eq hs List.length_replicate

/-- Descriptors that have samples do not end in the error of a malformed entry (R134). -/
theorem decodeOperands_not_malformed {samples : List Operand} (hs : ds.mapM OpDesc.sample = some samples)
    (h : decodeOperands refCfg buf off bad ds cur = .error e) : e.isMalformed = false := by
  induction ds generalizing cur samples with
  | nil => cases h
  | cons d ds ih =>
    rw [List.mapM_cons] at hs
    obtain ⟨o, ho, hs⟩ := Option.bind_eq_some_iff.1 hs
    obtain ⟨os, hos, -⟩ := Option.bind_eq_some_iff.1 hs
    obtain ⟨k, hk, -⟩ := Option.bind_eq_some_iff.1 ho
    simp only [decodeOperands, hk] at h
    split at h
    · cases h; rfl
    · split at h
      · next he =>
        obtain ⟨_, rfl⟩ := readBytes_error he
        cases h; rfl
      · next bs hbs =>
        obtain ⟨_, ho'⟩ := exists_build_of_sample ho (hk.trans (congrArg some (readBytes_length hbs).symm))
        rw [ho'] at h
        dsimp only at h
        split at h
        · next he => cases h; exact ih hos he
        · cases h

/-- No decode of REF meets a malformed entry (R110, R111). -/
theorem decodeAt_not_malformed (h : decodeAt refCfg buf off va = .error e) : e.isMalformed = false := by
  obtain hle | hlt := le_or_gt buf.size off
  · rw [decodeAt_truncated hle] at h
    cases h; rfl
  cases hb : buf.cell off with
  | none =>
    rw [decodeAt_undefined_first hlt hb] at h
    cases h; rfl
  | some b =>
    cases hv : (refEntry b).valid with
    | false =>
      rw [decodeAt_invalid hlt hb hv] at h
      cases h; rfl
    | true =>
      obtain ⟨z, -, hsamples⟩ := exists_sample_of_valid hv
      cases hops : decodeOperands refCfg buf off (.malformed none b) (refEntry b).descs 1 with
      | error e' =>
        rw [decodeAt_valid_eq_error hlt hb hv hops] at h
        cases h
        exact decodeOperands_not_malformed hsamples hops
      | ok r =>
        rw [(decodeAt_valid_eq_ok_iff hlt hb hv).2 ⟨r.1, r.2, hops, rfl⟩] at h
        cases h

end

end Sys2Proof

namespace Sys2Proof.Machine

section
variable {s : State} {f : Fault}

/-! ## The two halves of a step -/

theorem decodeFault_code {e : DecodeError} (he : e.isMalformed = false) (va : Word) :
    (decodeFault va e).code ∈ [1, 2, 7] := by
  cases e with
  | malformed => cases he
  | truncated | invalid | undefinedByte => simp [decodeFault, Fault.code]

/-- A fetch ends in InvalidInstruction, TruncatedInstruction or UndefinedFetch only (R401, R402, R406). -/
theorem fetchOpcode_code (h : fetchOpcode ref s = .error f) : f.code ∈ [1, 2, 7] := by
  cases hpc : s.pc with
  | none =>
    rw [fetchOpcode_undef hpc] at h
    cases h
    simp [Fault.code]
  | some va =>
    rw [fetchOpcode_ref hpc] at h
    cases hdecode : decodeAt refCfg (refCode s) va.toNat va with
    | error e =>
      rw [hdecode] at h
      cases h
      exact decodeFault_code (decodeAt_not_malformed hdecode) va
    | ok opc =>
      rw [hdecode] at h
      cases h

/-- A step ends in the error of its fetch, or is the execution of an instruction at PC (R190). -/
theorem step_cases (s : State) : (∃ e, fetchOpcode ref s = .error e ∧ step s = .fault e) ∨
    ∃ (i : Instr) (va : Word), s.pc = some va ∧ step s = exec i s := by
  cases hfetch : fetchOpcode ref s with
  | error e => exact .inl ⟨e, rfl, step_of_fetch_error hfetch⟩
  | ok opc =>
    obtain ⟨i, va, hpc, rfl⟩ := exists_instr_of_fetch hfetch
    exact .inr ⟨i, va, hpc, by simp only [step, hfetch, ofOpcode_opcode]⟩

theorem EndsAs.ne_refused {r : Host.Outcome State Fault Refusal} {o : Option Fault} (h : EndsAs r o) (x : Refusal) :
    r ≠ .refused x := by
  cases o with
  | none => obtain ⟨t, rfl⟩ := h; exact nofun
  | some f => obtain rfl := h; exact nofun

theorem EndsAs.eq_some_of_fault {o : Option Fault} (h : EndsAs (.fault f) o) : o = some f := by
  cases o with
  | none => obtain ⟨t, ht⟩ := h; cases ht
  | some f' => cases h; rfl

/-- Settles O19: the errors of the fetch and those of the execution have these codes. -/
theorem stepErrors : Obligations.StepErrors := by
  unfold Obligations.StepErrors
  intro s
  obtain ⟨e, hfetch, hstep⟩ | ⟨i, va, hpc, hstep⟩ := step_cases s
  · rw [hstep]
    refine ⟨nofun, ?_⟩
    rintro _ ⟨⟩
    have hcode := fetchOpcode_code hfetch
    simp only [List.mem_cons, List.not_mem_nil, or_false] at hcode ⊢
    omega
  · rw [hstep]
    have hends : EndsAs (exec i s) (raises i va s) := exec_endsAs hpc
    refine ⟨hends.ne_refused, fun f hf => ?_⟩
    rw [hf] at hends
    have hcode := raises_code hends.eq_some_of_fault
    simp only [List.mem_cons, List.not_mem_nil, or_false]
    omega

end

end Sys2Proof.Machine
end
